-- ==== Sys2Proof/Word.lean ====
section
/-! DEFINITION. The word widths of the unit (spec/00_scope.md section 6, "Widths"). -/

namespace Sys2Proof

/-- One byte of a packet (R50). -/
abbrev Byte := BitVec 8

/-- A 12-bit unsigned measurement or threshold (R13, R31). -/
abbrev Raw := BitVec 12

/-- The 32 bits of a binary32 value (R14, R85). -/
abbrev F32 := BitVec 32

/-- One entry of the calibration ROM: `entry[43:32] = raw`, `entry[31:0] = vel` (R31). -/
abbrev RomEntry := BitVec 44

/-- One host command word `cw[47:0]` (R51). -/
abbrev CommandWord := BitVec 48

/-- A 7-bit bus address (R4). -/
abbrev BusAddr := BitVec 7

end Sys2Proof
end

