-- ==== Sys2Proof/Config.lean ====
section
/-! DEFINITION. What is fixed when a unit is instantiated, and the free values: what the spec
leaves open is an opaque constant here, so that no proof can see a value for it. -/

namespace Sys2Proof

/-- Parameter `VARIANT`: one of a closed set of two (R2). -/
inductive Variant where
  | narrow
  | wide
  deriving DecidableEq, Repr, Inhabited

/-- One calibration point `(raw, vel)`; `vel` is the binary32 bit pattern the ROM stores (R3, R31). -/
structure CalPoint where
  raw : Raw
  vel : F32
  deriving DecidableEq, Repr

/-- The two-operand binary32 operations (R85), named so that a free value can depend on which one ran. -/
inductive FOp where
  | fadd
  | fsub
  | fmul
  | fdiv
  deriving DecidableEq, Repr

namespace Config

/-- The variant of the unit that `State.reset` describes. The spec gives no default (N11), so it is
free (log 3). -/
opaque variant : Variant

/-- `ADDR` unless the platform overrides it: 0x28 (R4). -/
def defaultAddr : BusAddr := 0x28

/-- `TEW - 1`. The spec leaves `TEW >= 1` open (R5, D13), so it is free (log 4). -/
opaque tewLessOne : Nat

/-- `TEW`, the width of a transport error value (R5). -/
def tew : Nat := tewLessOne + 1

end Config

/-- `TErr`: a transport error value, a vector of `TEW` bits the unit never looks into (R5, U4). -/
abbrev TErr := BitVec Config.tew

namespace Config

/-- FREE VALUE. Which input is taken first when a host command and a transport event are presented
in the same moment (R41, R126 item 3, U12); the argument numbers the ties (log 5). -/
opaque commandFirst : Nat → Bool

/-- FREE VALUE. What a ROM location past the last entry holds (R31); no rule reads one (log 8). -/
opaque romBeyond : Nat → RomEntry

/-- FREE VALUE. The bits of a NaN result, which the spec does not define (R86 item 2); none arises
with the built-in tables (log 9). -/
opaque freeNaN : FOp → F32 → F32 → F32

/-- FREE VALUE. What the `v` pin shows at the given look while `V` is unwritten (R11, U10; log 6). -/
opaque unwrittenV : Nat → BitVec 1

/-- FREE VALUE. What the `m` pins show while `M` is unwritten (R11, U10; log 6). -/
opaque unwrittenM : Nat → Raw

/-- FREE VALUE. What the `vel` pins show while `VEL` is unwritten (R11, U10; log 6). -/
opaque unwrittenVel : Nat → F32

/-- FREE VALUE. What the `err` pins show while `ERR` is unwritten (R11, U10; log 6). -/
opaque unwrittenErr : Nat → BitVec 2

/-- FREE VALUE. What the `te` pins show while `TE` is unwritten (R11, U10; log 6). -/
opaque unwrittenTe : Nat → TErr

/-- FREE VALUE. What the `resp` pins show when the last step answered no command (R57 says nothing
there; log 7). -/
opaque idleResp : Nat → BitVec 2

/-- FREE VALUE. How the platform reads a transport error value in a program text; it is given the one
word that stands after `@TERR` (R61; log 15). -/
opaque readTErr : List Char → Option TErr

/-- FREE VALUE. How the platform writes a transport error value in a program text (R61; log 15). -/
opaque writeTErr : TErr → List Char

end Config

end Sys2Proof
end

