-- ==== Sys2Proof/Syntax.lean ====
section
/-! DEFINITION. The eleven instructions of spec/opcode_table.json (eight host commands, three
transport events), the two ports they arrive on, and the lines of a program text. -/

namespace Sys2Proof

/-- A response packet, five bytes in index order (R36, R50). Every value is a packet; it may be valid
or invalid, never malformed. -/
structure Packet where
  b0 : Byte
  b1 : Byte
  b2 : Byte
  b3 : Byte
  b4 : Byte
  deriving DecidableEq, Repr

/-- The instruction set: one constructor per row of the opcode table (R55, R59). -/
inductive Instr where
  /-- `VALIDATE b0 b1 b2 b3 b4` (R72) -/
  | validate (p : Packet)
  /-- `EXTRACT b0 b1 b2 b3 b4` (R73) -/
  | extract (p : Packet)
  /-- `INTERP m` (R87) -/
  | interp (m : Raw)
  /-- `PROBE` (R102) -/
  | probe
  /-- `READRAW` (R103) -/
  | readraw
  /-- `READVEL` (R104) -/
  | readvel
  /-- `ACK` (R108) -/
  | ack
  /-- `ABORT` (R109) -/
  | abort
  /-- `@RXDONE b0 b1 b2 b3 b4` (R105) -/
  | rxdone (p : Packet)
  /-- `@TXNDONE` (R106) -/
  | txndone
  /-- `@TERR e` (R107) -/
  | terr (e : TErr)
  deriving DecidableEq, Repr

/-- What the transport event port carries in one moment: the triple of R59. -/
structure Event where
  tkind : BitVec 2
  tdata : BitVec 40
  terr  : TErr
  deriving DecidableEq, Repr

/-- One thing presented on one of the two ports: a host command word (R51) or a transport event (R59). -/
inductive Wire where
  | command (cw : CommandWord)
  | event (e : Event)
  deriving DecidableEq, Repr

/-- One line of a program text, its operands the numbers as written, not yet checked (R61). -/
inductive AsmLine where
  | validate (bytes : List Nat)
  | extract (bytes : List Nat)
  | interp (m : Nat)
  | probe
  | readraw
  | readvel
  | ack
  | abort
  | rxdone (bytes : List Nat)
  | txndone
  | terr (e : TErr)
  deriving DecidableEq, Repr

end Sys2Proof
end

