-- ==== Sys2Proof/WellFormed.lean ====
section
/-! DEFINITION. What must hold of a calibration table before a unit exists (R3, R134), of a program
line before the assembler takes it (R61), and the parameters of one unit. -/

namespace Sys2Proof

/-! ## The calibration table (R3) -/

/-- R3: "at least 2 points". -/
def atLeastTwo (points : List CalPoint) : Bool := 2 ≤ points.length

/-- R3: "strictly increasing rawThreshold". -/
def risingFrom (low : Raw) : List CalPoint → Bool
  | [] => true
  | p :: rest => low.ult p.raw && risingFrom p.raw rest

/-- R3: "strictly increasing rawThreshold", for the whole table. -/
def rising : List CalPoint → Bool
  | [] => true
  | p :: rest => risingFrom p.raw rest

/-- The well-formedness condition R3 puts on a `TABLE` (that each `raw` is in `0..4095` is its type).
It says nothing of the velocities (C2). -/
def tableWf (points : List CalPoint) : Bool := atLeastTwo points && rising points

/-- A calibration table that meets R3. A unit does not exist for any other (R134, U3), so no step
has to say what a malformed table does. -/
structure CalTable where
  points : List CalPoint
  wf     : tableWf points = true
  deriving DecidableEq, Repr

/-- Parameter `N`, the number of points (R3). -/
def CalTable.size (t : CalTable) : Nat := t.points.length

/-- What is fixed when a unit is instantiated and what no command, event or reset changes (R2, R3, R4). -/
structure Params where
  variant : Variant
  table   : CalTable
  addr    : BusAddr
  deriving DecidableEq, Repr

/-! ## Instructions and program lines -/

/-- Every value of `Instr` is well formed: a byte is 8 bits (R52), a measurement 12 (R53), and the
must-be-zero bits of a command word are no operand. -/
def Instr.wf : Instr → Bool
  | .validate _ | .extract _ | .interp _ | .probe | .readraw | .readvel | .ack | .abort
  | .rxdone _ | .txndone | .terr _ => true

/-- R61: five bytes, none above 0xFF. -/
def bytesWf (bytes : List Nat) : Bool := bytes.length == 5 && bytes.all (· ≤ 0xFF)

/-- R61: "The assembler refuses `INTERP` with `m > 4095` and any byte above `0xFF`". -/
def AsmLine.wf : AsmLine → Bool
  | .validate bytes | .extract bytes | .rxdone bytes => bytesWf bytes
  | .interp m => m ≤ 4095
  | .probe | .readraw | .readvel | .ack | .abort | .txndone | .terr _ => true

end Sys2Proof
end

