-- ==== Sys2Proof/Decode.lean ====
section
/-! DEFINITION. Decoding a command word (R51 to R56) and a transport event (R59), total on every
value of either port, and the encoder written from the same formats. -/

namespace Sys2Proof

/-- What the decoder makes of a word or of an event. -/
inductive Decoded where
  /-- an instruction -/
  | instr (i : Instr)
  /-- opcode `0x00` or `0x09..0xFF`: `REJ_ILLEGAL` (R56) -/
  | illegal
  /-- a must-be-zero bit is 1: `REJ_RESERVED` (R56) -/
  | reserved
  /-- `tkind = 0`: no event in this step (R59) -/
  | noEvent
  deriving DecidableEq, Repr

/-- `pkt.b[k] = d[39-8k : 32-8k]`: the packet layout of format P and of `tdata` (R52, R59). -/
def packetOfBits (d : BitVec 40) : Packet :=
  { b0 := d.extractLsb' 32 8, b1 := d.extractLsb' 24 8, b2 := d.extractLsb' 16 8
    b3 := d.extractLsb' 8 8, b4 := d.extractLsb' 0 8 }

/-- The same layout written: byte 0 in the most significant byte (R37, R52). -/
def bitsOfPacket (p : Packet) : BitVec 40 := p.b0 ++ p.b1 ++ p.b2 ++ p.b3 ++ p.b4

/-- `cw[47:40]` (R51). -/
def opcodeOf (cw : CommandWord) : BitVec 8 := cw.extractLsb' 40 8

/-- `cw[39:0]` (R51). -/
def operandOf (cw : CommandWord) : BitVec 40 := cw.extractLsb' 0 40

/-- Format Z: the whole operand field must be zero (R54). -/
def decodeZ (cw : CommandWord) (i : Instr) : Decoded :=
  if operandOf cw = 0 then .instr i else .reserved

/-- Format M: `cw[39:12]` must be zero and `m = cw[11:0]` (R53). -/
def decodeM (cw : CommandWord) (f : Raw → Instr) : Decoded :=
  if cw.extractLsb' 12 28 = 0 then .instr (f (cw.extractLsb' 0 12)) else .reserved

/-- Format P: no reserved bit (R52). -/
def decodeP (cw : CommandWord) (f : Packet → Instr) : Decoded :=
  .instr (f (packetOfBits (operandOf cw)))

/-- The opcode map (R55), with the first three verdicts of R56: illegal before reserved. -/
def decodeCommand (cw : CommandWord) : Decoded :=
  match (opcodeOf cw).toNat with
  | 0x01 => decodeP cw .validate
  | 0x02 => decodeP cw .extract
  | 0x03 => decodeM cw .interp
  | 0x04 => decodeZ cw .probe
  | 0x05 => decodeZ cw .readraw
  | 0x06 => decodeZ cw .readvel
  | 0x07 => decodeZ cw .ack
  | 0x08 => decodeZ cw .abort
  | _ => .illegal

/-- The event kinds (R59). "Fields an event does not carry are ignored." -/
def decodeEvent (e : Event) : Decoded :=
  match e.tkind.toNat with
  | 1 => .instr (.rxdone (packetOfBits e.tdata))
  | 2 => .instr .txndone
  | 3 => .instr (.terr e.terr)
  | _ => .noEvent

/-- Decoding, total on both ports. -/
def decode : Wire → Decoded
  | .command cw => decodeCommand cw
  | .event e => decodeEvent e

/-! ## The encoder -/

/-- A command word from its opcode and its operand field (R51). -/
def commandWord (opcode : BitVec 8) (operand : BitVec 40) : CommandWord := opcode ++ operand

/-- Format M (R53): zeros above the measurement. -/
def operandM (m : Raw) : BitVec 40 := (0 : BitVec 28) ++ m

/-- The words of an instruction, with zeros in every must-be-zero bit and in every field an event
does not carry (R52 to R55, R59, R61). -/
def encode : Instr → Wire
  | .validate p => .command (commandWord 0x01 (bitsOfPacket p))
  | .extract p  => .command (commandWord 0x02 (bitsOfPacket p))
  | .interp m   => .command (commandWord 0x03 (operandM m))
  | .probe      => .command (commandWord 0x04 0)
  | .readraw    => .command (commandWord 0x05 0)
  | .readvel    => .command (commandWord 0x06 0)
  | .ack        => .command (commandWord 0x07 0)
  | .abort      => .command (commandWord 0x08 0)
  | .rxdone p   => .event { tkind := 1, tdata := bitsOfPacket p, terr := 0 }
  | .txndone    => .event { tkind := 2, tdata := 0, terr := 0 }
  | .terr e     => .event { tkind := 3, tdata := 0, terr := e }

/-! ## The opcode table's numbering of bits -/

/-- The port value that a row of spec/opcode_table.json numbers as `w`. A row of 48 bits is a command
word. A row of 2 bits (8 in whole bytes) is `tkind[1:0]`; the table gives `tdata` and `terr`, which
are ports of their own, no bits of it, so both are zero. -/
def wireOfTableWord (nbits w : Nat) : Wire :=
  if nbits ≤ 8 then .event { tkind := BitVec.ofNat 2 w, tdata := 0, terr := 0 }
  else .command (BitVec.ofNat 48 w)

/-- The instruction the decoder reads from an opcode-table word; none where it refuses. -/
def decodeTableWord (nbits w : Nat) : Option Instr :=
  match decode (wireOfTableWord nbits w) with
  | .instr i => some i
  | .illegal | .reserved | .noEvent => none

end Sys2Proof
end

