-- ==== Sys2Proof/Machine/Rom.lean ====
section
/-! DEFINITION. The contents and layout of the calibration ROM (R31 to R35). -/

namespace Sys2Proof.Machine

/-- The ROM contents of a `NARROW` unit, index by index (R32). -/
def narrowPoints : List CalPoint :=
  [ ⟨409, 0x00000000⟩, ⟨915, 0x3F88F5C3⟩, ⟨1522, 0x4000A3D7⟩, ⟨2066, 0x40400000⟩,
    ⟨2523, 0x407E147B⟩, ⟨2908, 0x409EB852⟩, ⟨3256, 0x40BF5C29⟩, ⟨3572, 0x40DFAE14⟩,
    ⟨3686, 0x40E75C29⟩ ]

/-- The ROM contents of a `WIDE` unit, index by index (R33). -/
def widePoints : List CalPoint :=
  [ ⟨409, 0x00000000⟩, ⟨1203, 0x40000000⟩, ⟨1597, 0x40400000⟩, ⟨1908, 0x40800000⟩,
    ⟨2187, 0x40A00000⟩, ⟨2400, 0x40C00000⟩, ⟨2629, 0x40E00000⟩, ⟨2801, 0x41000000⟩,
    ⟨3006, 0x41100000⟩, ⟨3178, 0x41200000⟩, ⟨3309, 0x41300000⟩, ⟨3563, 0x41500000⟩,
    ⟨3686, 0x41700000⟩ ]

/-- The built-in table of the `NARROW` variant (R32); it meets R3. -/
def narrowTable : CalTable := ⟨narrowPoints, by decide⟩

/-- The built-in table of the `WIDE` variant (R33); it meets R3. -/
def wideTable : CalTable := ⟨widePoints, by decide⟩

/-- The built-in table of each variant (R2, R3). -/
def builtinTable : Variant → CalTable
  | .narrow => narrowTable
  | .wide => wideTable

/-- The parameters of a unit with the built-in table of its variant: the only units there are (R3, D24). -/
def builtinParams (v : Variant) (addr : BusAddr) : Params :=
  { variant := v, table := builtinTable v, addr := addr }

/-- The thresholds and velocities of R32 as the source writes them, the velocity in hundredths of a
metre per second: the normative contents, of which `narrowPoints` is the image (R34). -/
def narrowDecimals : List (Nat × Nat) :=
  [ (409, 0), (915, 107), (1522, 201), (2066, 300), (2523, 397), (2908, 496), (3256, 598),
    (3572, 699), (3686, 723) ]

/-- The thresholds and velocities of R33 as the source writes them, in hundredths. -/
def wideDecimals : List (Nat × Nat) :=
  [ (409, 0), (1203, 200), (1597, 300), (1908, 400), (2187, 500), (2400, 600), (2629, 700),
    (2801, 800), (3006, 900), (3178, 1000), (3309, 1100), (3563, 1300), (3686, 1500) ]

/-- The source's decimal table of each variant. -/
def decimalTable : Variant → List (Nat × Nat)
  | .narrow => narrowDecimals
  | .wide => wideDecimals

/-- The 44 bits of a ROM entry: `entry[43:32] = raw`, `entry[31:0] = vel` (R31). -/
def entryOf (p : CalPoint) : RomEntry := p.raw ++ p.vel

/-- The pair a 44-bit entry holds (R31). -/
def pointOfEntry (e : RomEntry) : CalPoint :=
  { raw := e.extractLsb' 32 12, vel := e.extractLsb' 0 32 }

/-- `RomRead(k)`: the pair `(raw, vel)` of entry `k`, one whole entry; it changes nothing (R31, R39,
R45). Past the last entry the content is unspecified, and no rule reads there (R31). -/
def romRead (t : CalTable) (k : Nat) : CalPoint :=
  match t.points[k]? with
  | some p => p
  | none => pointOfEntry (Config.romBeyond k)

end Sys2Proof.Machine
end

