-- ==== Sys2Proof/Machine/State.lean ====
section
/-! DEFINITION. The state of one unit: the seven registers of R10, its hardwired parameters, what its
output ports carried in the last step, and the inputs presented to it and not yet taken. -/

namespace Sys2Proof.Machine

/-- `ST`, the per-read state (R17). -/
inductive St where
  | idle
  | reading
  | decoded
  | failed
  deriving DecidableEq, Repr

/-- `KIND`, which start command put the unit in `Reading` (R18). -/
inductive Kind where
  | none
  | probe
  | raw
  | vel
  deriving DecidableEq, Repr

/-- `ERR`, the outcome of the operation that has ended (R15). Code 3 is reserved and never written, so
it is no value here (U9). -/
inductive Err where
  | none
  | transport
  | checksumFailed
  deriving DecidableEq, Repr

/-- `resp`, the answer to a command word (R57). -/
inductive Resp where
  | accept
  | rejIllegal
  | rejReserved
  | rejState
  deriving DecidableEq, Repr

/-- `treq`, the transport request port (R58). -/
inductive TReq where
  | none
  | read5
  | txn0
  | cancel
  deriving DecidableEq, Repr

/-- The architectural state of one unit: these seven registers and nothing else (R10). A result
register is unwritten (`none`) or written with one value of its width (R11). -/
structure Regs where
  /-- `ST`, always written (R17) -/
  st   : St
  /-- `KIND`, always written (R18) -/
  kind : Kind
  /-- `V`, 1 bit (R12) -/
  v    : Option Bool
  /-- `M`, 12 bits (R13) -/
  m    : Option Raw
  /-- `VEL`, binary32 (R14) -/
  vel  : Option F32
  /-- `ERR` (R15) -/
  err  : Option Err
  /-- `TE`, `TEW` bits (R16) -/
  te   : Option TErr
  deriving DecidableEq, Repr

/-- The value of every register after reset (R23). -/
def Regs.reset : Regs :=
  { st := .idle, kind := .none, v := none, m := none, vel := none, err := none, te := none }

/-- What the two ports that speak only in a step carried in the last one: the response to a command,
if it took a command (R57), and the transport request (R58). -/
structure Ports where
  resp : Option Resp
  treq : TReq
  deriving DecidableEq, Repr

/-- Both ports silent. -/
def Ports.silent : Ports := { resp := none, treq := .none }

/-- What the outside world presents in one moment (R9, R41). -/
inductive Input where
  /-- a host command word or a transport event -/
  | wire (w : Wire)
  /-- both in the same moment; they are taken one after the other in either order (R126 item 3) -/
  | together (cw : CommandWord) (e : Event)
  /-- the reset input `rst` (R140) -/
  | rst
  deriving DecidableEq, Repr

/-- One unit with its surroundings. -/
structure State where
  /-- the hardwired parameters, shown on `variant` and `taddr` (R2, R3, R4, R19); no step changes them -/
  params : Params
  /-- the seven registers (R10) -/
  regs   : Regs
  /-- the model's own: what the output ports carried in the last step -/
  ports  : Ports
  /-- the model's own: the inputs presented and not yet taken, in the order of presentation -/
  inbox  : List Input
  /-- the model's own: how many ties have been resolved, the argument of `Config.commandFirst` -/
  ties   : Nat
  deriving DecidableEq, Repr

/-- Why the machine stops with a fault: never. No input makes the unit stop or lock up (R120), so the
type has no constructor; a constructor would be a stop the spec does not give. Safe. -/
inductive Fault : Type
  deriving DecidableEq, Repr

/-- Why the model has no meaning for an instruction. -/
inductive Refusal where
  /-- Raised by `exec` for an instruction that has no meaning yet; no arm does. Safe. -/
  | notModelled (mnemonic : String)
  deriving DecidableEq, Repr

/-- The state right after reset of the unit with the parameters `p`, nothing presented to it (R23, R140). -/
def State.resetOf (p : Params) : State :=
  { params := p, regs := Regs.reset, ports := Ports.silent, inbox := [], ties := 0 }

/-- The machine right after reset: a unit with the built-in table of its variant, at the default bus
address (R4, R23). -/
def State.reset : State := State.resetOf (builtinParams Config.variant Config.defaultAddr)

end Sys2Proof.Machine
end

