-- ==== Sys2Proof/Machine/Operands.lean ====
section
/-! DEFINITION. What the Packet Codec reads from a packet operand (R70, R71). -/

namespace Sys2Proof.Machine

/-- `sum8(pkt)`: the 8-bit wrapping sum of all five bytes (R70). -/
def sum8 (p : Packet) : Byte := p.b0 + p.b1 + p.b2 + p.b3 + p.b4

/-- `extract(pkt) = (zext_12(pkt.b[1] & 0x0F) << 8) | zext_12(pkt.b[2])` (R71); it never looks at the
checksum (U2). -/
def extractRaw (p : Packet) : Raw :=
  ((p.b1 &&& 0x0F).setWidth 12 <<< 8) ||| p.b2.setWidth 12

end Sys2Proof.Machine
end

