-- ==== Sys2Proof/Machine/Flags.lean ====
section
/-! DEFINITION. The two flag-like values (R21): the validity of a packet and `done`. -/

namespace Sys2Proof.Machine

/-- `validate(pkt) = (sum8(pkt) == 0)` (R70). -/
def validPacket (p : Packet) : Bool := sum8 p == 0

/-- `done`, a pure function of `ST`: 1 exactly in `Decoded` and `Failed` (R21, R125). -/
def doneFlag : St → Bool
  | .idle | .reading => false
  | .decoded | .failed => true

end Sys2Proof.Machine
end

