-- ==== Sys2Proof/Machine/Float.lean ====
section
/-! DEFINITION. The binary32 format and its operations (R85): the exact result, then one rounding to
nearest, ties to even. Every finite value is a whole number of units of `2^-149`, so exact results
are whole numbers or fractions of them. -/

namespace Sys2Proof.Machine

/-- Bit 31, the sign. -/
def signOf (x : F32) : Bool := x.getLsbD 31

/-- Bits `[30:23]`, the biased exponent. -/
def expOf (x : F32) : Nat := (x.extractLsb' 23 8).toNat

/-- Bits `[22:0]`, the fraction. -/
def fracOf (x : F32) : Nat := (x.extractLsb' 0 23).toNat

/-- `e = 255`, `f != 0`. -/
def isNaN (x : F32) : Bool := expOf x == 255 && fracOf x != 0

/-- `e = 255`, `f = 0`. -/
def isInf (x : F32) : Bool := expOf x == 255 && fracOf x == 0

/-- `e <= 254`: the value is a number. -/
def isFinite (x : F32) : Bool := expOf x != 255

/-- Positive zero. -/
def plusZero : F32 := 0x00000000

/-- The magnitude of a finite value in units of `2^-149`. -/
def unitsOf (x : F32) : Nat :=
  if expOf x = 0 then fracOf x else (2 ^ 23 + fracOf x) * 2 ^ (expOf x - 1)

/-- A finite value in units of `2^-149`, with its sign. -/
def signedUnits (x : F32) : Int := if signOf x then - (unitsOf x : Int) else (unitsOf x : Int)

/-- One metre per second, or the number 1, in units of `2^-149`. -/
def one : Nat := 2 ^ 149

/-- The value of a finite binary32 as a rational number (R85). -/
def valueOf (x : F32) : Rat := (signedUnits x : Rat) / (one : Rat)

/-- `num / den` rounded to the nearest whole number, ties to even. -/
def roundHalfEven (num den : Nat) : Nat :=
  let q := num / den
  let r := num % den
  if 2 * r < den then q
  else if den < 2 * r then q + 1
  else if q % 2 = 0 then q else q + 1

/-- The bits below the sign of the binary32 value nearest to `num / den` units, ties to the one whose
last fraction bit is 0; a result too large for the format is infinity (R85). The spacing of the
values around `num / den` is `2^shift` units, and adding the rounded significand to the shifted
exponent carries into it when the significand rounds up to `2^24`. -/
def roundBits (num den : Nat) : Nat :=
  let shift := (num / den).log2 - 23
  let bits := shift * 2 ^ 23 + roundHalfEven num (den * 2 ^ shift)
  if bits < 0x7F800000 then bits else 0x7F800000

/-- A binary32 value from its sign and the bits below it. -/
def packF32 (sign : Bool) (bits : Nat) : F32 :=
  BitVec.ofNat 32 (if sign then 2 ^ 31 + bits else bits)

/-- Infinity with the given sign. -/
def infinity (sign : Bool) : F32 := packF32 sign 0x7F800000

/-- A NaN result. The spec does not define its bits (R86 item 2): any NaN, chosen by the free value. -/
def nanResult (op : FOp) (a b : F32) : F32 :=
  if isNaN (Config.freeNaN op a b) then Config.freeNaN op a b else 0x7FC00000

/-- `i2f(n)` (R85); exact for `n < 2^24`. -/
def i2f (n : Nat) : F32 := packF32 false (roundBits (n * one) 1)

/-- The same value with the other sign. -/
def negF32 (x : F32) : F32 := x ^^^ 0x80000000

/-- The IEEE 754 sum; `op` says which operation asks for it. An exact zero is `-0` only when both
operands are `-0`. -/
def sumF32 (op : FOp) (a b : F32) : F32 :=
  if isNaN a || isNaN b then nanResult op a b
  else if isInf a then (if isInf b && signOf a != signOf b then nanResult op a b else a)
  else if isInf b then b
  else
    let s := signedUnits a + signedUnits b
    if s = 0 then packF32 (signOf a && signOf b) 0
    else packF32 (s < 0) (roundBits s.natAbs 1)

/-- `fadd`. "`fadd(x, +0) = x` for every `x`" (R85) is taken as it stands, for `-0` and for a NaN too (log 10). -/
def fadd (a b : F32) : F32 := if b = plusZero then a else sumF32 .fadd a b

/-- `fsub`: the sum with the second operand negated (R85). -/
def fsub (a b : F32) : F32 := sumF32 .fsub a (negF32 b)

/-- `fmul` (R85). -/
def fmul (a b : F32) : F32 :=
  let s := signOf a != signOf b
  if isNaN a || isNaN b then nanResult .fmul a b
  else if isInf a || isInf b then
    (if unitsOf a = 0 || unitsOf b = 0 then nanResult .fmul a b else infinity s)
  else packF32 s (roundBits (unitsOf a * unitsOf b) one)

/-- `fdiv` (R85). -/
def fdiv (a b : F32) : F32 :=
  let s := signOf a != signOf b
  if isNaN a || isNaN b then nanResult .fdiv a b
  else if isInf a then (if isInf b then nanResult .fdiv a b else infinity s)
  else if isInf b then packF32 s 0
  else if unitsOf b = 0 then (if unitsOf a = 0 then nanResult .fdiv a b else infinity s)
  else packF32 s (roundBits (unitsOf a * one) (unitsOf b))

end Sys2Proof.Machine
end

