-- ==== Sys2Proof/Machine/Interpolator.lean ====
section
/-! DEFINITION. The Interpolator: segment search (R80), the two clamps (R81, R82), the formula over the
rationals (R83) and its binary32 evaluation (R84). -/

namespace Sys2Proof.Machine

/-- `TABLE[k].raw`, read through the ROM (R31). -/
def rawAt (t : CalTable) (k : Nat) : Raw := (romRead t k).raw

/-- `TABLE[k].vel`, read through the ROM (R31). -/
def velAt (t : CalTable) (k : Nat) : F32 := (romRead t k).vel

/-- The scan of R80 over the indices below `n`, highest first: the highest `k` with `TABLE[k].raw <= m`,
an unsigned 12-bit comparison; none is `below_floor`. -/
def segBelow (t : CalTable) (m : Raw) : Nat → Option Nat
  | 0 => none
  | k + 1 => if (rawAt t k).ule m then some k else segBelow t m k

/-- `seg(m)` (R80). -/
def seg (t : CalTable) (m : Raw) : Option Nat := segBelow t m t.size

/-- `frac` of segment `i`: `fdiv(i2f(num), i2f(den))`, the subtractions done on integers (R84). -/
def fracAt (t : CalTable) (i : Nat) (m : Raw) : F32 :=
  fdiv (i2f (m - rawAt t i).toNat) (i2f (rawAt t (i + 1) - rawAt t i).toNat)

/-- `dv` of segment `i` (R84). -/
def dvAt (t : CalTable) (i : Nat) : F32 := fsub (velAt t (i + 1)) (velAt t i)

/-- `fadd(vel_i, fmul(frac, dv))`, each operation rounded once and no fused multiply-add (R84). -/
def interpAt (t : CalTable) (i : Nat) (m : Raw) : F32 :=
  fadd (velAt t i) (fmul (fracAt t i m) (dvAt t i))

/-- `interp(m)` over the table of the unit (R84, R89). -/
def interp (t : CalTable) (m : Raw) : F32 :=
  match seg t m with
  | none => plusZero
  | some i => if i + 1 = t.size then velAt t i else interpAt t i m

/-! ## The formula over the rationals (R83) -/

/-- Segment search over a decimal table (thresholds and hundredths), lowest segment first: the pair
of points around `m`, or the last point alone. -/
def realSegment (m : Nat) : List (Nat × Nat) → Option ((Nat × Nat) × Option (Nat × Nat))
  | [] => none
  | p :: rest =>
    match realSegment m rest with
    | some found => some found
    | none => if p.1 ≤ m then some (p, rest.head?) else none

/-- `interp_real(m)` (R83), velocities in hundredths turned into metres per second. -/
def interpReal (table : List (Nat × Nat)) (m : Nat) : Rat :=
  match realSegment m table with
  | none => 0
  | some (p, none) => (p.2 : Rat) / 100
  | some (p, some q) =>
    (p.2 : Rat) / 100
      + (((m : Rat) - (p.1 : Rat)) / ((q.1 : Rat) - (p.1 : Rat)))
        * ((q.2 : Rat) / 100 - (p.2 : Rat) / 100)

end Sys2Proof.Machine
end

