-- ==== Sys2Proof/Machine/Ops.lean ====
section
/-! DEFINITION. The named operations every meaning is made of: responses and emissions, register
writes, starting an operation, entering `Failed` and leaving it, reset. -/

namespace Sys2Proof.Machine

/-- What a step of this machine answers. -/
abbrev Result := Host.Outcome State Fault Refusal

/-! ## Responses and emissions -/

/-- A step that answers no command and requests nothing: an event (R59), a reset (R140), a moment in
which nothing is presented. -/
def State.quiet (s : State) : State := { s with ports := Ports.silent }

/-- `respond(code)` (R57), with nothing on the transport request port. -/
def State.respond (c : Resp) (s : State) : State :=
  { s with ports := { resp := some c, treq := .none } }

/-- `emit TREQ(q, ADDR); respond(ACCEPT)` (R58): one request; `taddr` is `ADDR` always. -/
def State.acceptEmit (q : TReq) (s : State) : State :=
  { s with ports := { resp := some .accept, treq := q } }

/-- `reject(reason)`: the response and no other effect (R56, R124). -/
def reject (c : Resp) (s : State) : Result := .next (s.respond c)

/-- An event that is not taken changes no register and causes no emission and no response (R110). -/
def dropEvent (s : State) : Result := .next s.quiet

/-! ## Register writes -/

/-- `V <- b` (R12). -/
def State.setV (b : Bool) (s : State) : State := { s with regs := { s.regs with v := some b } }

/-- `M <- m` (R13). -/
def State.setM (m : Raw) (s : State) : State := { s with regs := { s.regs with m := some m } }

/-- `VEL <- x` (R14). -/
def State.setVel (x : F32) (s : State) : State := { s with regs := { s.regs with vel := some x } }

/-- `ERR <- e` (R15). -/
def State.setErr (e : Err) (s : State) : State := { s with regs := { s.regs with err := some e } }

/-- `TE <- e` (R16). -/
def State.setTe (e : TErr) (s : State) : State := { s with regs := { s.regs with te := some e } }

/-- `ST <- st` (R17). -/
def State.setSt (st : St) (s : State) : State := { s with regs := { s.regs with st := st } }

/-- `KIND <- k` (R18). -/
def State.setKind (k : Kind) (s : State) : State := { s with regs := { s.regs with kind := k } }

/-- The five result registers become unwritten (R11). -/
def State.clearResults (s : State) : State :=
  { s with regs := { s.regs with v := none, m := none, vel := none, err := none, te := none } }

/-! ## Acceptance (R56, the state check) -/

/-- The states in which the datapath and start commands are accepted (R56). -/
def acceptsStart : St → Bool
  | .idle => true
  | .reading | .decoded | .failed => false

/-- The states in which `ACK` is accepted (R56, R108). -/
def acceptsAck : St → Bool
  | .decoded | .failed => true
  | .idle | .reading => false

/-- The states in which `ABORT` is accepted (R56, R109). -/
def acceptsAbort : St → Bool
  | .reading => true
  | .idle | .decoded | .failed => false

/-- Run `body` if the command is accepted in the present `ST`, else `REJ_STATE` (R56). -/
def whenAccepted (accepts : St → Bool) (s : State) (body : Result) : Result :=
  if accepts s.regs.st then body else reject .rejState s

/-! ## The course of an operation -/

/-- `start(k, q)` (R101). -/
def start (k : Kind) (q : TReq) (s : State) : Result :=
  whenAccepted acceptsStart s
    (.next (((s.clearResults.setKind k).setSt .reading).acceptEmit q))

/-- Why an operation ends in `Failed`: the two errors of the source (R120). -/
inductive Failure where
  /-- `TRANSPORT`, with the value the transport reported (R123) -/
  | transport (e : TErr)
  /-- `CHECKSUM_FAILED` (R122) -/
  | checksum
  deriving DecidableEq, Repr

/-- `fail(code)`, the entry into `Failed` (R127): `ERR` and `ST`, for `TRANSPORT` also `TE`, for
`CHECKSUM_FAILED` also `V = 0`; nothing is saved and control goes nowhere. -/
def fail (f : Failure) (s : State) : Result :=
  match f with
  | .transport e => .next (((s.setTe e).setErr .transport).setSt .failed).quiet
  | .checksum => .next (((s.setV false).setErr .checksumFailed).setSt .failed).quiet

/-- The successful end of an operation: `ERR <- NONE; ST <- Decoded` (R105, R106). -/
def succeed (s : State) : Result := .next ((s.setErr .none).setSt .decoded).quiet

/-- The return from `Failed` and from `Decoded`: results and `KIND` cleared, `ST <- Idle` (R108, R128). -/
def leave (s : State) : State := (s.clearResults.setKind .none).setSt .idle

/-- The effect of `rst`, in any state: every register at its reset value, no response, no emission,
not even a `CANCEL` (R140, R141). The parameters, and what is presented next, are not touched. -/
def State.resetUnit (s : State) : State := { s with regs := Regs.reset, ports := Ports.silent }

end Sys2Proof.Machine
end

