-- ==== Sys2Proof/Machine/Datapath.lean ====
section
/-! DEFINITION. The datapath commands: `VALIDATE` (R72), `EXTRACT` (R73), `INTERP` (R87). -/

namespace Sys2Proof.Machine

/-- `VALIDATE`: writes `V` and nothing else; an invalid packet is a normal result (R72, C3). -/
def execValidate (p : Packet) (s : State) : Result :=
  whenAccepted acceptsStart s (.next ((s.setV (validPacket p)).respond .accept))

/-- `EXTRACT`: writes `M` and nothing else, whether or not the packet is valid (R73). -/
def execExtract (p : Packet) (s : State) : Result :=
  whenAccepted acceptsStart s (.next ((s.setM (extractRaw p)).respond .accept))

/-- `INTERP`: writes `VEL` and nothing else, from the operand and the unit's own table (R87, R89). -/
def execInterp (m : Raw) (s : State) : Result :=
  whenAccepted acceptsStart s (.next ((s.setVel (interp s.params.table m)).respond .accept))

end Sys2Proof.Machine
end

