-- ==== Sys2Proof/Machine/Events.lean ====
section
/-! DEFINITION. The transport events: `RXDONE` (R105), `TXNDONE` (R106), `TERR` (R107), each dropped
when it does not match what the unit is waiting for (R110). -/

namespace Sys2Proof.Machine

/-- `RXDONE` is taken in `Reading` with `KIND` `RAW` or `VEL` (R105). -/
def takesRxdone (r : Regs) : Bool := r.st == .reading && (r.kind == .raw || r.kind == .vel)

/-- `TXNDONE` is taken in `Reading` with `KIND = PROBE` (R106). -/
def takesTxndone (r : Regs) : Bool := r.st == .reading && r.kind == .probe

/-- `TERR` is taken in `Reading`, whatever `KIND` is (R107). -/
def takesTerr (r : Regs) : Bool := r.st == .reading

/-- The valid branch of `RXDONE`: `V`, then `M`, then `VEL` for a `READVEL` (R105). -/
def deliver (p : Packet) (s : State) : State :=
  let s' := (s.setV true).setM (extractRaw p)
  if s.regs.kind = .vel then s'.setVel (interp s.params.table (extractRaw p)) else s'

/-- `RXDONE`: validate first, extract only if valid, interpolate only after extracting; all in one
step (R105, R112). -/
def execRxdone (p : Packet) (s : State) : Result :=
  if takesRxdone s.regs then
    if validPacket p then succeed (deliver p s) else fail .checksum s
  else dropEvent s

/-- `TXNDONE`: the device acknowledged (R106). -/
def execTxndone (s : State) : Result :=
  if takesTxndone s.regs then succeed s else dropEvent s

/-- `TERR`: the outstanding request failed; `e` is copied bit for bit (R107). -/
def execTerr (e : TErr) (s : State) : Result :=
  if takesTerr s.regs then fail (.transport e) s else dropEvent s

end Sys2Proof.Machine
end

