-- ==== Sys2Proof/Machine/Sequencer.lean ====
section
/-! DEFINITION. The sequencing commands: `PROBE`, `READRAW`, `READVEL` (R101 to R104), `ACK` (R108),
`ABORT` (R109). -/

namespace Sys2Proof.Machine

/-- `PROBE`: `start(PROBE, TXN0)` (R102). -/
def execProbe (s : State) : Result := start .probe .txn0 s

/-- `READRAW`: `start(RAW, READ5)` (R103). -/
def execReadraw (s : State) : Result := start .raw .read5 s

/-- `READVEL`: `start(VEL, READ5)` (R104). -/
def execReadvel (s : State) : Result := start .vel .read5 s

/-- `ACK`: the host has taken the result (R108). -/
def execAck (s : State) : Result :=
  whenAccepted acceptsAck s (.next ((leave s).respond .accept))

/-- `ABORT`: back to `Idle` with one `CANCEL`; the result registers were unwritten in `Reading` and
stay so (R109). -/
def execAbort (s : State) : Result :=
  whenAccepted acceptsAbort s (.next (((s.setKind .none).setSt .idle).acceptEmit .cancel))

end Sys2Proof.Machine
end

