-- ==== Sys2Proof/Machine/Dispatch.lean ====
section
/-! DEFINITION. One arm per instruction. -/

namespace Sys2Proof.Machine

def exec (i : Instr) (s : State) : Host.Outcome State Fault Refusal :=
  match i with
  | .validate p => Sys2Proof.Machine.execValidate p s
  | .extract p => Sys2Proof.Machine.execExtract p s
  | .interp m => Sys2Proof.Machine.execInterp m s
  | .probe => Sys2Proof.Machine.execProbe s
  | .readraw => Sys2Proof.Machine.execReadraw s
  | .readvel => Sys2Proof.Machine.execReadvel s
  | .ack => Sys2Proof.Machine.execAck s
  | .abort => Sys2Proof.Machine.execAbort s
  | .rxdone p => Sys2Proof.Machine.execRxdone p s
  | .txndone => Sys2Proof.Machine.execTxndone s
  | .terr e => Sys2Proof.Machine.execTerr e s

end Sys2Proof.Machine
end

