-- ==== Sys2Proof/Machine/Inputs.lean ====
section
/-! DEFINITION. Which input a step takes: the next one presented, and the order in which two inputs of
one moment are taken. -/

namespace Sys2Proof.Machine

/-- What one step takes from the outside world. -/
inductive Turn where
  /-- nothing is presented -/
  | nothing
  /-- a port value -/
  | wire (w : Wire)
  /-- the reset input -/
  | rst
  deriving DecidableEq, Repr

/-- The next turn, and the state with that input taken from the inbox. Of a host command and a
transport event presented in the same moment one is taken now and the other is the very next input;
which, the free value says (R41, R126 item 3). -/
def State.nextTurn (s : State) : Turn × State :=
  match s.inbox with
  | [] => (.nothing, s)
  | .wire w :: rest => (.wire w, { s with inbox := rest })
  | .rst :: rest => (.rst, { s with inbox := rest })
  | .together cw e :: rest =>
    if Config.commandFirst s.ties then
      (.wire (.command cw), { s with inbox := .wire (.event e) :: rest, ties := s.ties + 1 })
    else
      (.wire (.event e), { s with inbox := .wire (.command cw) :: rest, ties := s.ties + 1 })

/-- Present inputs to the unit, after those already presented. -/
def State.present (xs : List Input) (s : State) : State := { s with inbox := s.inbox ++ xs }

/-- Present a port value as the very next input. -/
def State.presentFirst (w : Wire) (s : State) : State := { s with inbox := .wire w :: s.inbox }

end Sys2Proof.Machine
end

