-- ==== Sys2Proof/Machine/Step.lean ====
section
/-! DEFINITION. One step: the next input presented to the unit, taken whole (R9). -/

namespace Sys2Proof.Machine

/-- What the unit does with one port value: the verdicts of R56 in their order (the last of them, the
state check, is in each command's meaning), and nothing for the absence of an event (R59). -/
def runDecoded (d : Decoded) (s : State) : Host.Outcome State Fault Refusal :=
  match d with
  | .instr i => exec i s
  | .illegal => reject .rejIllegal s
  | .reserved => reject .rejReserved s
  | .noEvent => .next s.quiet

/-- What the unit does with one turn. With nothing presented it waits, keeping all state (R133). -/
def takeTurn (turn : Turn) (s : State) : Host.Outcome State Fault Refusal :=
  match turn with
  | .nothing => .next s.quiet
  | .wire w => runDecoded (decode w) s
  | .rst => .next s.resetUnit

/-- One step of the machine (R9). -/
def step (s : State) : Host.Outcome State Fault Refusal := takeTurn s.nextTurn.1 s.nextTurn.2

/-- `s` with the instruction that the opcode table numbers as `w` presented as the next input. -/
def State.withFetchWord (s : State) (nbits w : Nat) : State :=
  s.presentFirst (wireOfTableWord nbits w)

end Sys2Proof.Machine
end

