-- ==== Sys2Proof/Machine/Assembler.lean ====
section
/-! DEFINITION. The text form of commands and events and its assembler (R61, R62). It is no part of the
unit: it turns the lines of a program into the inputs presented to it. -/

namespace Sys2Proof.Machine

/-! ## Reading -/

/-- The value of a hexadecimal digit. The spec does not say whether lower case is read; it is (log 14). -/
def hexValue (c : Char) : Option Nat :=
  if '0' ≤ c ∧ c ≤ '9' then some (c.toNat - 48)
  else if 'A' ≤ c ∧ c ≤ 'F' then some (c.toNat - 55)
  else if 'a' ≤ c ∧ c ≤ 'f' then some (c.toNat - 87)
  else none

/-- The value of a decimal digit. -/
def decValue (c : Char) : Option Nat :=
  if '0' ≤ c ∧ c ≤ '9' then some (c.toNat - 48) else none

/-- A numeral in the given base, most significant digit first, after the digits read so far. -/
def readDigits (base : Nat) (digit : Char → Option Nat) : Nat → List Char → Option Nat
  | acc, [] => some acc
  | acc, c :: rest =>
    match digit c with
    | some d => readDigits base digit (acc * base + d) rest
    | none => none

/-- A byte: two hexadecimal digits (R61). -/
def readByte (token : List Char) : Option Nat :=
  if token.length = 2 then readDigits 16 hexValue 0 token else none

/-- Each token a byte. -/
def readBytes : List (List Char) → Option (List Nat)
  | [] => some []
  | t :: rest =>
    match readByte t, readBytes rest with
    | some b, some bs => some (b :: bs)
    | _, _ => none

/-- `m`: decimal, or `0x` followed by up to three hexadecimal digits (R61). -/
def readMeasurement (token : List Char) : Option Nat :=
  match token with
  | [] => none
  | '0' :: 'x' :: [] => none
  | '0' :: 'x' :: digits =>
    if digits.length ≤ 3 then readDigits 16 hexValue 0 digits else none
  | digits => readDigits 10 decValue 0 digits

/-- `;` starts a comment (R61). -/
def dropComment : List Char → List Char
  | [] => []
  | c :: rest => if c = ';' then [] else c :: dropComment rest

/-- The words of a line, parted by white space; `word` is the one being read, reversed. -/
def words (word : List Char) : List Char → List (List Char)
  | [] => if word.isEmpty then [] else [word.reverse]
  | c :: rest =>
    if c = ' ' ∨ c = '\t' then
      (if word.isEmpty then words [] rest else word.reverse :: words [] rest)
    else words (c :: word) rest

/-- What a line of text is. -/
inductive LineText where
  /-- nothing, or a comment only -/
  | blank
  /-- a command or an event -/
  | line (l : AsmLine)
  /-- none of the forms of R61 -/
  | malformed
  deriving DecidableEq, Repr

/-- A line that carries a packet, or a malformed one. -/
def packetLine (f : List Nat → AsmLine) (operands : List (List Char)) : LineText :=
  match readBytes operands with
  | some bytes => .line (f bytes)
  | none => .malformed

/-- The forms of R61, by mnemonic and operands. A packet or a measurement out of range is a line here
and is refused by `AsmLine.wf`. DESIGN CHOICE: the operand of `@TERR` is one word, so it holds no
blank, no tab and no `;`, whatever the platform writes; R61 leaves its form to the platform (log 15). -/
def lineOfWords : List (List Char) → LineText
  | [] => .blank
  | mnemonic :: operands =>
    if mnemonic = "VALIDATE".toList then packetLine .validate operands
    else if mnemonic = "EXTRACT".toList then packetLine .extract operands
    else if mnemonic = "@RXDONE".toList then packetLine .rxdone operands
    else
      match operands with
      | [] =>
        if mnemonic = "PROBE".toList then .line .probe
        else if mnemonic = "READRAW".toList then .line .readraw
        else if mnemonic = "READVEL".toList then .line .readvel
        else if mnemonic = "ACK".toList then .line .ack
        else if mnemonic = "ABORT".toList then .line .abort
        else if mnemonic = "@TXNDONE".toList then .line .txndone
        else .malformed
      | [operand] =>
        if mnemonic = "INTERP".toList then
          match readMeasurement operand with
          | some m => .line (.interp m)
          | none => .malformed
        else if mnemonic = "@TERR".toList then
          match Config.readTErr operand with
          | some e => .line (.terr e)
          | none => .malformed
        else .malformed
      | _ => .malformed

/-- One line of text. -/
def readLine (text : List Char) : LineText := lineOfWords (words [] (dropComment text))

/-! ## Assembling -/

/-- Five bytes as a packet; the list is five bytes long in a well-formed line. -/
def packetOfList : List Nat → Option Packet
  | [b0, b1, b2, b3, b4] =>
    some { b0 := BitVec.ofNat 8 b0, b1 := BitVec.ofNat 8 b1, b2 := BitVec.ofNat 8 b2
           b3 := BitVec.ofNat 8 b3, b4 := BitVec.ofNat 8 b4 }
  | _ => none

/-- The instruction of a line, its operands already checked. -/
def instrOfLine : AsmLine → Option Instr
  | .validate bytes => (packetOfList bytes).map .validate
  | .extract bytes => (packetOfList bytes).map .extract
  | .interp m => some (.interp (BitVec.ofNat 12 m))
  | .probe => some .probe
  | .readraw => some .readraw
  | .readvel => some .readvel
  | .ack => some .ack
  | .abort => some .abort
  | .rxdone bytes => (packetOfList bytes).map .rxdone
  | .txndone => some .txndone
  | .terr e => some (.terr e)

/-- The instruction the assembler makes of a line; it refuses a byte above `0xFF` and an `m` above
4095 (R61). -/
def assembleLine (l : AsmLine) : Option Instr := if l.wf then instrOfLine l else none

/-- A program: a finite list of lines, one command or event each, in order (R61). None if the
assembler refuses a line. -/
def assemble : List (List Char) → Option (List Input)
  | [] => some []
  | text :: rest =>
    match readLine text with
    | .malformed => none
    | .blank => assemble rest
    | .line l =>
      match assembleLine l, assemble rest with
      | some i, some is => some (.wire (encode i) :: is)
      | _, _ => none

/-! ## Writing -/

/-- A hexadecimal digit, upper case as the spec writes it. -/
def hexDigit (n : Nat) : Char :=
  if n < 10 then Char.ofNat (48 + n) else Char.ofNat (55 + n)

/-- A byte as two hexadecimal digits after a blank. -/
def writeByte (b : Byte) : List Char := [' ', hexDigit (b.toNat / 16), hexDigit (b.toNat % 16)]

/-- A packet in index order. -/
def writePacket (p : Packet) : List Char :=
  writeByte p.b0 ++ writeByte p.b1 ++ writeByte p.b2 ++ writeByte p.b3 ++ writeByte p.b4

/-- A measurement as `0x` and three hexadecimal digits. -/
def writeMeasurement (m : Raw) : List Char :=
  [' ', '0', 'x', hexDigit (m.toNat / 256), hexDigit (m.toNat / 16 % 16), hexDigit (m.toNat % 16)]

/-- The assembler form of an instruction (R61). -/
def disassemble : Instr → List Char
  | .validate p => "VALIDATE".toList ++ writePacket p
  | .extract p => "EXTRACT".toList ++ writePacket p
  | .interp m => "INTERP".toList ++ writeMeasurement m
  | .probe => "PROBE".toList
  | .readraw => "READRAW".toList
  | .readvel => "READVEL".toList
  | .ack => "ACK".toList
  | .abort => "ABORT".toList
  | .rxdone p => "@RXDONE".toList ++ writePacket p
  | .txndone => "@TXNDONE".toList
  | .terr e => "@TERR".toList ++ ' ' :: Config.writeTErr e

end Sys2Proof.Machine
end

