-- ==== Sys2Proof/Machine/Client.lean ====
section
/-! DEFINITION. The source's client operations as the host procedures of R113: which start command, and
what the host reads when `done` rises. -/

namespace Sys2Proof.Machine

/-- What an operation of the source's Client returns (R113, last two columns). -/
inductive ClientResult where
  /-- `connected()`: `Ok(())` -/
  | present
  /-- `readRaw()`: `Ok(measurement)` -/
  | measurement (m : Raw)
  /-- `readVelocity()`: `Ok(velocity)` -/
  | velocity (x : F32)
  /-- `Err(Transport(e))`; for `connected()` the bare transport error -/
  | transportError (e : TErr)
  /-- `Err(ChecksumFailed)` -/
  | checksumFailed
  deriving DecidableEq, Repr

/-- What the host reads from the registers of an ended operation (R113). None while no operation has
ended, and where a register it would read is unwritten, which R24 rules out. -/
def Regs.clientResult (r : Regs) : Option ClientResult :=
  match r.st, r.kind, r.err with
  | .decoded, .probe, _ => some .present
  | .decoded, .raw, _ => r.m.map .measurement
  | .decoded, .vel, _ => r.vel.map .velocity
  | .failed, _, some .transport => r.te.map .transportError
  | .failed, _, some .checksumFailed => some .checksumFailed
  | _, _, _ => none

end Sys2Proof.Machine
end

