-- ==== Sys2Proof/Machine/Pins.lean ====
section
/-! DEFINITION. The codes of the registers and ports (R15, R17, R18, R57, R58) and what the outputs of
the unit show (R60). -/

namespace Sys2Proof.Machine

/-- The code of `ST` (R17). -/
def St.code : St → BitVec 2
  | .idle => 0
  | .reading => 1
  | .decoded => 2
  | .failed => 3

/-- The code of `KIND` (R18). -/
def Kind.code : Kind → BitVec 2
  | .none => 0
  | .probe => 1
  | .raw => 2
  | .vel => 3

/-- The code of `ERR` (R15). -/
def Err.code : Err → BitVec 2
  | .none => 0
  | .transport => 1
  | .checksumFailed => 2

/-- The code of a response (R57). -/
def Resp.code : Resp → BitVec 2
  | .accept => 0
  | .rejIllegal => 1
  | .rejReserved => 2
  | .rejState => 3

/-- The code of a transport request (R58). -/
def TReq.code : TReq → BitVec 2
  | .none => 0
  | .read5 => 1
  | .txn0 => 2
  | .cancel => 3

/-- The code of `VARIANT` (R19). -/
def variantCode : Variant → BitVec 1
  | .narrow => 0
  | .wide => 1

/-- One bit, 1 for true. -/
def bit (b : Bool) : BitVec 1 := if b then 1 else 0

/-- What the outputs of the unit show at one look (R60). -/
structure Pins where
  resp    : BitVec 2
  st      : BitVec 2
  kind    : BitVec 2
  done    : BitVec 1
  v       : BitVec 1
  m       : Raw
  vel     : F32
  err     : BitVec 2
  te      : TErr
  variant : BitVec 1
  taddr   : BusAddr
  treq    : BitVec 2
  deriving DecidableEq, Repr

/-- A written register shows its value; what an unwritten one shows is unspecified, and need not be
the same at two looks (R11, U10). -/
def shown {α : Type} (unwritten : Nat → α) (look : Nat) (r : Option α) : α :=
  match r with
  | some x => x
  | none => unwritten look

/-- The outputs at the host's look number `look` (R60). -/
def State.pins (look : Nat) (s : State) : Pins :=
  { resp := shown Config.idleResp look (s.ports.resp.map Resp.code)
    st := s.regs.st.code
    kind := s.regs.kind.code
    done := bit (doneFlag s.regs.st)
    v := shown Config.unwrittenV look (s.regs.v.map bit)
    m := shown Config.unwrittenM look s.regs.m
    vel := shown Config.unwrittenVel look s.regs.vel
    err := shown Config.unwrittenErr look (s.regs.err.map Err.code)
    te := shown Config.unwrittenTe look s.regs.te
    variant := variantCode s.params.variant
    taddr := s.params.addr
    treq := s.ports.treq.code }

end Sys2Proof.Machine
end

