-- ==== Sys2Proof/Safety.lean ====
section
/-! DEFINITION. The terms claims are stated in: the invariant of R24, the verdict of R56 read off the
bits of a word, the transitions of R100, the duties of the transport (R147), the pairings of R126. -/

namespace Sys2Proof.Machine

/-! ## The invariant of the state (R24) -/

/-- `VEL` is unwritten or holds `interp(m)` of some measurement: as `INTERP` leaves it (R14, R24). -/
def velFromTable (s : State) : Prop :=
  s.regs.vel = none ∨ ∃ m : Raw, s.regs.vel = some (interp s.params.table m)

/-- All five result registers are unwritten. -/
def Regs.unwritten (r : Regs) : Prop :=
  r.v = none ∧ r.m = none ∧ r.vel = none ∧ r.err = none ∧ r.te = none

/-- The rows of R24, one conjunction per value of `ST` (and of `ERR` in `Failed`). -/
def State.Inv (s : State) : Prop :=
  match s.regs.st with
  | .idle => s.regs.kind = .none ∧ velFromTable s ∧ s.regs.err = none ∧ s.regs.te = none
  | .reading => s.regs.kind ≠ .none ∧ s.regs.unwritten
  | .decoded =>
    s.regs.err = some .none ∧ s.regs.te = none ∧
    match s.regs.kind with
    | .none => False
    | .probe => s.regs.v = none ∧ s.regs.m = none ∧ s.regs.vel = none
    | .raw => s.regs.v = some true ∧ s.regs.m.isSome ∧ s.regs.vel = none
    | .vel =>
      s.regs.v = some true ∧
      ∃ m : Raw, s.regs.m = some m ∧ s.regs.vel = some (interp s.params.table m)
  | .failed =>
    s.regs.m = none ∧ s.regs.vel = none ∧
    ((s.regs.err = some .checksumFailed ∧ s.regs.v = some false ∧ s.regs.te = none ∧
        (s.regs.kind = .raw ∨ s.regs.kind = .vel)) ∨
      (s.regs.err = some .transport ∧ s.regs.v = none ∧ s.regs.te.isSome ∧
        s.regs.kind ≠ .none))

/-! ## The verdict on a command word (R56), from its bits and the present `ST` alone -/

/-- Some must-be-zero bit of the word is 1, by the ranges of R53, R54 and R56. -/
def mbzSet (cw : CommandWord) : Bool :=
  let op := cw.toNat / 2 ^ 40
  (op == 3 && cw.toNat / 2 ^ 12 % 2 ^ 28 != 0) ||
    (4 ≤ op && op ≤ 8 && cw.toNat % 2 ^ 40 != 0)

/-- R56's second table: the states in which the command with this opcode is accepted. -/
def opcodeAccepted (op : Nat) (st : St) : Bool :=
  if op ≤ 6 then st == .idle
  else if op = 7 then st == .decoded || st == .failed
  else st == .reading

/-- `decode(cw)` of R56: the tests in the spec's order, the first that applies is the verdict. -/
def verdict (cw : CommandWord) (st : St) : Resp :=
  let op := cw.toNat / 2 ^ 40
  if op = 0 ∨ 9 ≤ op then .rejIllegal
  else if mbzSet cw then .rejReserved
  else if opcodeAccepted op st then .accept
  else .rejState

/-! ## The state machine (R100) -/

/-- The next `ST`, row by row of R100: from the registers and the instruction presented. -/
def nextSt (r : Regs) (i : Instr) : St :=
  match r.st, i with
  | .idle, .probe | .idle, .readraw | .idle, .readvel => .reading
  | .reading, .rxdone p =>
    if r.kind = .raw ∨ r.kind = .vel then (if validPacket p then .decoded else .failed)
    else .reading
  | .reading, .txndone => if r.kind = .probe then .decoded else .reading
  | .reading, .terr _ => .failed
  | .reading, .abort => .idle
  | .decoded, .ack | .failed, .ack => .idle
  | st, _ => st

/-- A start command: `PROBE`, `READRAW`, `READVEL` (R10). -/
def startKind : Instr → Option Kind
  | .probe => some .probe
  | .readraw => some .raw
  | .readvel => some .vel
  | .validate _ | .extract _ | .interp _ | .ack | .abort | .rxdone _ | .txndone | .terr _ => none

/-- A host command; the other three instructions are transport events (R55, R59). -/
def isCommand : Instr → Bool
  | .validate _ | .extract _ | .interp _ | .probe | .readraw | .readvel | .ack | .abort => true
  | .rxdone _ | .txndone | .terr _ => false

/-! ## The transport (R147, R110) -/

/-- The event answers the request that a start command of this kind makes (R147 item 1). -/
def answers (k : Kind) : Instr → Bool
  | .rxdone _ => k == .raw || k == .vel
  | .txndone => k == .probe
  | .terr _ => k != .none
  | .validate _ | .extract _ | .interp _ | .probe | .readraw | .readvel | .ack | .abort => false

/-- The event is taken in this state; otherwise it is dropped (R105, R106, R107, R110). -/
def eventTaken (r : Regs) : Instr → Bool
  | .rxdone _ => takesRxdone r
  | .txndone => takesTxndone r
  | .terr _ => takesTerr r
  | .validate _ | .extract _ | .interp _ | .probe | .readraw | .readvel | .ack | .abort => false

/-- The duties of a correct transport as far as the unit can see them (R147 items 1 and 4): an event
that is the next input finds its request outstanding, and answers it. -/
def transportHonest (s : State) : Prop :=
  ∀ e rest i, s.inbox = .wire (.event e) :: rest → decodeEvent e = .instr i →
    s.regs.st = .reading ∧ answers s.regs.kind i = true

/-! ## Simultaneous inputs (R126 item 3) -/

/-- The registers and the response to the command when the command is taken first, then the event.
A step's `resp` is read in the state that step leaves. -/
def commandThenEvent (s : State) (c e : Decoded) : Option (Regs × Option Resp) :=
  match runDecoded c s with
  | .next s1 =>
    match runDecoded e s1 with
    | .next s2 => some (s2.regs, s1.ports.resp)
    | _ => none
  | _ => none

/-- The same when the event is taken first. -/
def eventThenCommand (s : State) (c e : Decoded) : Option (Regs × Option Resp) :=
  match runDecoded e s with
  | .next s1 =>
    match runDecoded c s1 with
    | .next s2 => some (s2.regs, s2.ports.resp)
    | _ => none
  | _ => none

/-- The three pairings of R126 item 3 in which the order is visible: `ABORT` or `ACK` against an event
that is taken in `Reading`, and a start command in `Idle` against an event that would answer it. -/
def orderVisible (r : Regs) (c e : Instr) : Prop :=
  (r.st = .reading ∧ (c = .abort ∨ c = .ack) ∧ eventTaken r e = true) ∨
    (r.st = .idle ∧ ∃ k, startKind c = some k ∧ answers k e = true)

/-! ## The binary32 numbers (R85, R86) -/

/-- The magnitude of the largest finite binary32, `2^128 - 2^104`. -/
def maxFinite : Rat := 2 ^ 128 - 2 ^ 104

/-- Where rounding to nearest leaves the finite values: `2^128 - 2^103`, half a step above the largest. -/
def overflowFrom : Rat := 2 ^ 128 - 2 ^ 103

/-- `x` is what IEEE 754 gives for an exact result above the largest finite magnitude: that value while
it is nearer, infinity from `overflowFrom` on, with the sign of the exact result (log 9). -/
def roundsAtTop (q : Rat) (x : F32) : Prop :=
  (maxFinite < |q| → |q| < overflowFrom → x = packF32 (decide (q < 0)) 0x7F7FFFFF) ∧
    (overflowFrom ≤ |q| → x = infinity (decide (q < 0)))

/-- `x` is the representable value nearest to the rational `q`, and where another is as near, the last
fraction bit of `x` is 0 (R85). -/
def nearestEven (q : Rat) (x : F32) : Prop :=
  isFinite x = true ∧
    ∀ y : F32, isFinite y = true →
      |valueOf x - q| ≤ |valueOf y - q| ∧
        (|valueOf x - q| = |valueOf y - q| → valueOf x ≠ valueOf y → x.getLsbD 0 = false)

/-- Every velocity of the table is finite and not negative. -/
def ordinaryTable (t : CalTable) : Prop :=
  ∀ p ∈ t.points, isFinite p.vel = true ∧ signOf p.vel = false

end Sys2Proof.Machine
end

