-- ==== Sys2Proof/Certificates/Slice0/Obligations.lean ====
section
/-! DEFINITION. The statements about the model. Each docstring names the rule it formalises. -/

open Sys2Proof Sys2Proof.Machine

/-! ## Decoding and encoding -/

/-- R52 to R56, R59, R61: words written out from the encodings of the spec decode to what they stand for. -/
def Obligations.SpecWordsDecode : Prop :=
  decodeCommand 0x01CC01990199 = .instr (.validate ⟨0xCC, 0x01, 0x99, 0x01, 0x99⟩) ∧
    decodeCommand 0x020001020304 = .instr (.extract ⟨0x00, 0x01, 0x02, 0x03, 0x04⟩) ∧
    decodeCommand 0x0300000004C2 = .instr (.interp 1218) ∧
    decodeCommand 0x060000000000 = .instr .readvel ∧
    decodeCommand 0x070000000001 = .reserved ∧
    decodeCommand 0x0A00000000FF = .illegal ∧
    ∀ e : TErr, decodeEvent ⟨1, 0x3A04C20000, e⟩ = .instr (.rxdone ⟨0x3A, 0x04, 0xC2, 0x00, 0x00⟩)

/-- No bit of an instruction is lost by its encoding (formats P, M, Z and T: R52 to R55, R59). -/
def Obligations.DecodeInvertsEncode : Prop :=
  ∀ i : Instr, i.wf = true ∧ decode (encode i) = .instr i

/-- Each command word that decodes has one meaning and one assembler form: re-encoding gives the word. -/
def Obligations.EncodeInvertsDecodeOnCommands : Prop :=
  ∀ (cw : CommandWord) (i : Instr), decodeCommand cw = .instr i → encode i = .command cw

/-- R59: `tkind` selects the event, `tdata` holds the bytes of `RXDONE` in the layout of format P,
`terr` the value of `TERR`, and fields an event does not carry are ignored. -/
def Obligations.EventFieldsAreRead : Prop :=
  (∀ (p : Packet) (e : TErr), decodeEvent ⟨1, bitsOfPacket p, e⟩ = .instr (.rxdone p)) ∧
    (∀ (d : BitVec 40) (e : TErr), decodeEvent ⟨2, d, e⟩ = .instr .txndone) ∧
    (∀ (d : BitVec 40) (e : TErr), decodeEvent ⟨3, d, e⟩ = .instr (.terr e)) ∧
    (∀ (d : BitVec 40) (e : TErr), decodeEvent ⟨0, d, e⟩ = .noEvent) ∧
    (∀ (d : BitVec 40) (k : Nat), k < 40 →
      (bitsOfPacket (packetOfBits d)).getLsbD k = d.getLsbD k)

/-- R56, R57, R124: a command word gets exactly one verdict, read off its bits and the present `ST` in
the order of R56, on `resp` in the same step; an accepted one executes its command's rule, and a
rejected one changes no register and emits no request. -/
def Obligations.CommandWordGetsItsVerdict : Prop :=
  ∀ (s : State) (cw : CommandWord) (rest : List Input),
    s.inbox = .wire (.command cw) :: rest →
    ∃ t, step s = .next t ∧ t.inbox = rest ∧
      t.ports.resp = some (verdict cw s.regs.st) ∧
      (∀ look, (t.pins look).resp = (verdict cw s.regs.st).code) ∧
      (verdict cw s.regs.st = .accept →
        ∃ i, decodeCommand cw = .instr i ∧ exec i { s with inbox := rest } = .next t) ∧
      (verdict cw s.regs.st ≠ .accept →
        t = { s with inbox := rest
                     ports := { resp := some (verdict cw s.regs.st), treq := .none } })

/-- Lines of R61 and the assembler agree: the written form of every instruction but `TERR` (whose
operand the platform writes) is read back and assembles to that instruction. -/
def Obligations.AssemblerReadsWrittenForm : Prop :=
  ∀ i : Instr, (∀ e, i ≠ .terr e) →
    ∃ l, readLine (disassemble i) = .line l ∧ l.wf = true ∧ assembleLine l = some i

/-! ## The datapath commands -/

/-- R72: `VALIDATE` in `Idle` writes `V` and nothing else and answers `ACCEPT`, whatever the packet; in
any other state it is answered `REJ_STATE`; no operand bit is reserved. -/
def Obligations.ValidateWritesOnlyV : Prop :=
  (∀ (p : Packet) (s : State), s.regs.st = .idle →
    exec (.validate p) s = .next
      { s with
        regs := { s.regs with
          v := some (decide
            ((p.b0.toNat + p.b1.toNat + p.b2.toNat + p.b3.toNat + p.b4.toNat) % 256 = 0)) }
        ports := { resp := some .accept, treq := .none } }) ∧
    (∀ (p : Packet) (s : State), s.regs.st ≠ .idle →
      exec (.validate p) s = .next { s with ports := { resp := some .rejState, treq := .none } }) ∧
    (∀ d : BitVec 40, decodeCommand (commandWord 0x01 d) = .instr (.validate (packetOfBits d)))

/-- R73: `EXTRACT` in `Idle` writes `M`, from the low nibble of byte 1 and from byte 2, and nothing
else, valid packet or not; in any other state it is answered `REJ_STATE`. -/
def Obligations.ExtractWritesOnlyM : Prop :=
  (∀ (p : Packet) (s : State), s.regs.st = .idle →
    exec (.extract p) s = .next
      { s with
        regs := { s.regs with m := some (p.b1.extractLsb' 0 4 ++ p.b2) }
        ports := { resp := some .accept, treq := .none } }) ∧
    (∀ (p : Packet) (s : State), s.regs.st ≠ .idle →
      exec (.extract p) s = .next { s with ports := { resp := some .rejState, treq := .none } }) ∧
    (∀ d : BitVec 40, decodeCommand (commandWord 0x02 d) = .instr (.extract (packetOfBits d)))

/-- R87, R89: `INTERP` in `Idle` writes `VEL` with `interp` of its own operand over the unit's own
table, and nothing else; in any other state it is answered `REJ_STATE`; a set bit of `cw[39:12]` is
`REJ_RESERVED`. The last clause is the rule's corner cases and worked example on `NARROW`. -/
def Obligations.InterpWritesOnlyVel : Prop :=
  (∀ (m : Raw) (s : State), s.regs.st = .idle →
    exec (.interp m) s = .next
      { s with
        regs := { s.regs with vel := some (interp s.params.table m) }
        ports := { resp := some .accept, treq := .none } }) ∧
    (∀ (m : Raw) (s : State), s.regs.st ≠ .idle →
      exec (.interp m) s = .next { s with ports := { resp := some .rejState, treq := .none } }) ∧
    (∀ (z : BitVec 28) (m : Raw),
      decodeCommand (commandWord 0x03 (z ++ m)) = if z = 0 then .instr (.interp m) else .reserved) ∧
    interp narrowTable 0 = 0x00000000 ∧ interp narrowTable 408 = 0x00000000 ∧
    interp narrowTable 409 = 0x00000000 ∧ interp narrowTable 3685 = 0x40E74AEA ∧
    interp narrowTable 3686 = 0x40E75C29 ∧ interp narrowTable 4095 = 0x40E75C29 ∧
    fracAt narrowTable 1 1218 = 0x3EFF9408 ∧ dvAt narrowTable 1 = 0x3F70A3D6 ∧
    fmul (fracAt narrowTable 1 1218) (dvAt narrowTable 1) = 0x3EF03E58 ∧
    interp narrowTable 1218 = 0x3FC50559

/-- R70, R75 item 1: a packet is valid exactly when its checksum byte is the negation modulo 256 of the
sum of the other four. -/
def Obligations.ChecksumByteIsNegatedSum : Prop :=
  ∀ p : Packet, validPacket p = true ↔
    p.b0.toNat =
      (256 - (p.b1.toNat + p.b2.toNat + p.b3.toNat + p.b4.toNat) % 256) % 256

/-- R75 item 3: of two packets that differ in exactly one byte at most one is valid. -/
def Obligations.SingleByteChangeIsCaught : Prop :=
  ∀ (p : Packet) (b : Byte), validPacket p = true →
    (b ≠ p.b0 → validPacket { p with b0 := b } = false) ∧
      (b ≠ p.b1 → validPacket { p with b1 := b } = false) ∧
      (b ≠ p.b2 → validPacket { p with b2 := b } = false) ∧
      (b ≠ p.b3 → validPacket { p with b3 := b } = false) ∧
      (b ≠ p.b4 → validPacket { p with b4 := b } = false)

/-- R71, R75 item 4: `extract` is `{b1[3:0], b2[7:0]}`, so it depends on nothing else, and every 12-bit
value is produced. -/
def Obligations.ExtractIsConcatenation : Prop :=
  (∀ p : Packet, extractRaw p = p.b1.extractLsb' 0 4 ++ p.b2) ∧
    (∀ m : Raw, ∃ p : Packet, extractRaw p = m)

/-- R75 item 5: for every measurement, upper nibble of byte 1, byte 3 and byte 4 there is exactly one
valid packet that carries them. -/
def Obligations.OneValidPacketPerMeasurement : Prop :=
  ∀ (m : Raw) (nibble : BitVec 4) (b3 b4 : Byte),
    ∃ p : Packet,
      (validPacket p = true ∧ extractRaw p = m ∧ p.b1.extractLsb' 4 4 = nibble ∧
        p.b3 = b3 ∧ p.b4 = b4) ∧
      ∀ q : Packet,
        validPacket q = true ∧ extractRaw q = m ∧ q.b1.extractLsb' 4 4 = nibble ∧
          q.b3 = b3 ∧ q.b4 = b4 → q = p

/-! ## The ROM and the Interpolator -/

/-- R31: a ROM read returns the pair of the point at that index, and a 44-bit entry holds a pair with
`raw` in bits 43..32 and `vel` in bits 31..0. -/
def Obligations.RomReadReturnsEntry : Prop :=
  (∀ (t : CalTable) (k : Nat) (p : CalPoint), t.points[k]? = some p →
    romRead t k = p ∧ rawAt t k = p.raw ∧ velAt t k = p.vel) ∧
    (∀ p : CalPoint, (entryOf p).extractLsb' 32 12 = p.raw ∧
      (entryOf p).extractLsb' 0 32 = p.vel ∧ pointOfEntry (entryOf p) = p)

/-- R32, R33, R34: the built-in tables hold, index by index, the source's thresholds and the binary32
values nearest to the source's decimals. -/
def Obligations.RomHoldsNearestOfDecimals : Prop :=
  ∀ v : Variant,
    (builtinTable v).points.map CalPoint.raw
        = (decimalTable v).map (fun d => BitVec.ofNat 12 d.1) ∧
      ∀ (k : Nat) (p : CalPoint) (d : Nat × Nat),
        (builtinTable v).points[k]? = some p → (decimalTable v)[k]? = some d →
          nearestEven ((d.2 : Rat) / 100) p.vel ∧ (d.2 = 0 → p.vel = 0x00000000)

/-- R80: for every well-formed table, `seg(m)` is `below_floor` exactly when `m < TABLE[0].raw`, and
otherwise the one `i` with `TABLE[i].raw <= m` and (`i = N-1` or `m < TABLE[i+1].raw`). -/
def Obligations.SegmentSearchFindsSegment : Prop :=
  ∀ (t : CalTable) (m : Raw),
    (seg t m = none ↔ m.toNat < (rawAt t 0).toNat) ∧
      ∀ i : Nat, seg t m = some i ↔
        i < t.size ∧ (rawAt t i).toNat ≤ m.toNat ∧
          (i + 1 = t.size ∨ m.toNat < (rawAt t (i + 1)).toNat)

/-- R81, R82: for every well-formed table, `interp` is +0.0 below the smallest threshold and the last
velocity, bit for bit, at or above the largest. -/
def Obligations.InterpClampsAtBothEnds : Prop :=
  ∀ (t : CalTable) (m : Raw),
    (∀ p, t.points.head? = some p → m.toNat < p.raw.toNat → interp t m = 0x00000000) ∧
      (∀ p, t.points.getLast? = some p → p.raw.toNat ≤ m.toNat → interp t m = p.vel)

/-- R84: between two neighbouring points, the binary32 operations in the spec's order. -/
def Obligations.InterpEvaluatesFormula : Prop :=
  ∀ (t : CalTable) (m : Raw) (i : Nat) (p q : CalPoint),
    t.points[i]? = some p → t.points[i + 1]? = some q →
    p.raw.toNat ≤ m.toNat → m.toNat < q.raw.toNat →
    interp t m =
      fadd p.vel
        (fmul
          (fdiv (i2f (m.toNat - p.raw.toNat)) (i2f (q.raw.toNat - p.raw.toNat)))
          (fsub q.vel p.vel))

/-- R88 item 3: at each threshold of a well-formed table whose velocities are finite and not negative,
`interp` gives that point's velocity bit for bit. -/
def Obligations.InterpExactAtThresholds : Prop :=
  ∀ t : CalTable, ordinaryTable t → ∀ p ∈ t.points, interp t p.raw = p.vel

/-- R88 item 4: for both built-in tables `interp` is non-decreasing over all 4096 measurements. -/
def Obligations.InterpMonotoneOnBuiltinTables : Prop :=
  ∀ (v : Variant) (m n : Raw), m.toNat ≤ n.toNat →
    valueOf (interp (builtinTable v) m) ≤ valueOf (interp (builtinTable v) n)

/-- R86 items 2 and 6, R88 item 7, R14: with the built-in tables every velocity is finite, has sign bit
0, is at least 0.0 and at most the last velocity of the table. -/
def Obligations.VelocityStaysInRange : Prop :=
  ∀ (v : Variant) (m : Raw) (last : CalPoint), (builtinTable v).points.getLast? = some last →
    isFinite (interp (builtinTable v) m) = true ∧ signOf (interp (builtinTable v) m) = false ∧
      0 ≤ valueOf (interp (builtinTable v) m) ∧
      valueOf (interp (builtinTable v) m) ≤ valueOf last.vel

/-- R88 item 6: the binary32 evaluation differs from the formula over the rationals with the source's
decimals (R83) by at most 4.7e-7 (`NARROW`) and 5.3e-7 (`WIDE`), for every measurement. -/
def Obligations.InterpErrorBound : Prop :=
  ∀ m : Raw,
    |valueOf (interp narrowTable m) - interpReal narrowDecimals m.toNat| ≤ 47 / 100000000 ∧
      |valueOf (interp wideTable m) - interpReal wideDecimals m.toNat| ≤ 53 / 100000000

/-- R86 items 1 and 5: in every segment of a built-in table `den >= 1`, and `dv` is the exact difference
of the two stored velocities. -/
def Obligations.SegmentDifferencesAreExact : Prop :=
  ∀ (v : Variant) (i : Nat), i + 1 < (builtinTable v).size →
    1 ≤ (rawAt (builtinTable v) (i + 1) - rawAt (builtinTable v) i).toNat ∧
      valueOf (dvAt (builtinTable v) i)
        = valueOf (velAt (builtinTable v) (i + 1)) - valueOf (velAt (builtinTable v) i)

/-- R85: on finite operands, wherever the exact result is within the format's range, each operation
gives the exact result rounded to nearest, ties to even. -/
def Obligations.BinaryOperationsRoundCorrectly : Prop :=
  ∀ a b : F32, isFinite a = true → isFinite b = true →
    (|valueOf a + valueOf b| ≤ maxFinite → nearestEven (valueOf a + valueOf b) (fadd a b)) ∧
      (|valueOf a - valueOf b| ≤ maxFinite → nearestEven (valueOf a - valueOf b) (fsub a b)) ∧
      (|valueOf a * valueOf b| ≤ maxFinite → nearestEven (valueOf a * valueOf b) (fmul a b)) ∧
      (valueOf b ≠ 0 → |valueOf a / valueOf b| ≤ maxFinite →
        nearestEven (valueOf a / valueOf b) (fdiv a b))

/-- R85: `i2f` is exact below `2^24`; `fadd(x, +0) = x` for every `x`; the product of +0 and a
non-negative finite value is +0. -/
def Obligations.BinaryOperationIdentities : Prop :=
  (∀ n : Nat, n < 2 ^ 24 →
      isFinite (i2f n) = true ∧ signOf (i2f n) = false ∧ valueOf (i2f n) = (n : Rat)) ∧
    (∀ x : F32, fadd x 0x00000000 = x) ∧
    (∀ x : F32, isFinite x = true → signOf x = false →
      fmul 0x00000000 x = 0x00000000 ∧ fmul x 0x00000000 = 0x00000000)

/-! ## The sequencer -/

/-- R101: a start command in `Idle` clears the five result registers, sets `KIND` and `ST = Reading`,
emits exactly its one request to `ADDR` and answers `ACCEPT`; nothing else changes. In any other state
it is answered `REJ_STATE`. -/
def Obligations.StartClearsAndRequests : Prop :=
  ∀ (s : State) (i : Instr) (k : Kind) (q : TReq),
    ((i = .probe ∧ k = .probe ∧ q = .txn0) ∨ (i = .readraw ∧ k = .raw ∧ q = .read5) ∨
      (i = .readvel ∧ k = .vel ∧ q = .read5)) →
    (s.regs.st = .idle →
      ∃ t, exec i s = .next t ∧
        t = { s with
          regs :=
            { st := .reading, kind := k, v := none, m := none, vel := none, err := none, te := none }
          ports := { resp := some .accept, treq := q } } ∧
        ∀ look, (t.pins look).treq = q.code ∧ (t.pins look).taddr = s.params.addr) ∧
      (s.regs.st ≠ .idle →
        exec i s = .next { s with ports := { resp := some .rejState, treq := .none } })

/-- R108: `ACK` in `Decoded` or `Failed` clears the results and `KIND`, returns to `Idle`, answers
`ACCEPT` and emits nothing; elsewhere it is answered `REJ_STATE`. -/
def Obligations.AckReturnsToIdle : Prop :=
  (∀ s : State, s.regs.st = .decoded ∨ s.regs.st = .failed →
    exec .ack s = .next
      { s with
        regs :=
          { st := .idle, kind := .none, v := none, m := none, vel := none, err := none, te := none }
        ports := { resp := some .accept, treq := .none } }) ∧
    (∀ s : State, s.regs.st = .idle ∨ s.regs.st = .reading →
      exec .ack s = .next { s with ports := { resp := some .rejState, treq := .none } }) ∧
    (∀ d : BitVec 40,
      decodeCommand (commandWord 0x07 d) = if d = 0 then .instr .ack else .reserved)

/-- R109: `ABORT` in `Reading` sets `KIND = NONE`, `ST = Idle`, emits one `CANCEL` to `ADDR` and answers
`ACCEPT`, writing no result register; from a state of R24 the registers are then those of reset.
Elsewhere it is answered `REJ_STATE`. -/
def Obligations.AbortLeavesNoPartialState : Prop :=
  (∀ s : State, s.regs.st = .reading →
    ∃ t, exec .abort s = .next t ∧
      t = { s with
        regs := { s.regs with st := .idle, kind := .none }
        ports := { resp := some .accept, treq := .cancel } } ∧
      (∀ look, (t.pins look).taddr = s.params.addr) ∧
      (s.Inv → t.regs = Regs.reset)) ∧
    (∀ s : State, s.regs.st ≠ .reading →
      exec .abort s = .next { s with ports := { resp := some .rejState, treq := .none } }) ∧
    (∀ d : BitVec 40,
      decodeCommand (commandWord 0x08 d) = if d = 0 then .instr .abort else .reserved)

/-- R105: `RXDONE` in `Reading` with `KIND` `RAW` or `VEL`, in one step: a valid packet gives `V = 1`,
`M`, for `VEL` also `VEL = interp(M)`, `ERR = NONE`, `Decoded`; an invalid one `V = 0`,
`ERR = CHECKSUM_FAILED`, `Failed`, and neither `M` nor `VEL`. No response, no emission. Otherwise the
event is dropped. -/
def Obligations.RxdoneDeliversOrFails : Prop :=
  (∀ (p : Packet) (s : State),
    s.regs.st ≠ .reading ∨ (s.regs.kind ≠ .raw ∧ s.regs.kind ≠ .vel) →
    exec (.rxdone p) s = .next { s with ports := { resp := none, treq := .none } }) ∧
  ∀ (p : Packet) (s : State), s.regs.st = .reading →
    (s.regs.kind = .raw → validPacket p = true →
      exec (.rxdone p) s = .next
        { s with
          regs := { s.regs with
            st := .decoded, v := some true, m := some (extractRaw p), err := some .none }
          ports := { resp := none, treq := .none } }) ∧
      (s.regs.kind = .vel → validPacket p = true →
        exec (.rxdone p) s = .next
          { s with
            regs := { s.regs with
              st := .decoded, v := some true, m := some (extractRaw p)
              vel := some (interp s.params.table (extractRaw p)), err := some .none }
            ports := { resp := none, treq := .none } }) ∧
      (s.regs.kind = .raw ∨ s.regs.kind = .vel → validPacket p = false →
        exec (.rxdone p) s = .next
          { s with
            regs := { s.regs with st := .failed, v := some false, err := some .checksumFailed }
            ports := { resp := none, treq := .none } })

/-- R106: `TXNDONE` in `Reading` with `KIND = PROBE` gives `ERR = NONE`, `Decoded` and nothing else;
otherwise it is dropped. -/
def Obligations.TxndoneEndsProbe : Prop :=
  (∀ s : State, s.regs.st = .reading → s.regs.kind = .probe →
    exec .txndone s = .next
      { s with
        regs := { s.regs with st := .decoded, err := some .none }
        ports := { resp := none, treq := .none } }) ∧
    (∀ s : State, s.regs.st ≠ .reading ∨ s.regs.kind ≠ .probe →
      exec .txndone s = .next { s with ports := { resp := none, treq := .none } })

/-- R107, R123: `TERR` in `Reading`, whatever `KIND`, gives `TE = e` bit for bit, `ERR = TRANSPORT`,
`Failed` and nothing else, for every error value; otherwise it is dropped. -/
def Obligations.TerrRecordsTransportError : Prop :=
  ∀ (e : TErr) (s : State),
    (s.regs.st = .reading →
      exec (.terr e) s = .next
        { s with
          regs := { s.regs with st := .failed, err := some .transport, te := some e }
          ports := { resp := none, treq := .none } }) ∧
      (s.regs.st ≠ .reading →
        exec (.terr e) s = .next { s with ports := { resp := none, treq := .none } })

/-- R110: any event outside `Reading`, `RXDONE` when `KIND = PROBE` and `TXNDONE` when `KIND` is `RAW` or
`VEL` change no register and cause no emission and no response. -/
def Obligations.UnmatchedEventsAreDropped : Prop :=
  ∀ (s : State) (p : Packet) (e : TErr),
    (s.regs.st ≠ .reading →
      exec (.rxdone p) s = .next { s with ports := { resp := none, treq := .none } } ∧
        exec .txndone s = .next { s with ports := { resp := none, treq := .none } } ∧
        exec (.terr e) s = .next { s with ports := { resp := none, treq := .none } }) ∧
      (s.regs.kind = .probe →
        exec (.rxdone p) s = .next { s with ports := { resp := none, treq := .none } }) ∧
      (s.regs.kind = .raw ∨ s.regs.kind = .vel →
        exec .txndone s = .next { s with ports := { resp := none, treq := .none } })

/-- R127: `Failed` is entered only by `TERR` or by `RXDONE` of an invalid packet, with `ERR` (and `TE`, or
`V = 0`) and `ST` written and nothing else, `KIND` kept and `done = 1`; from a state of R24 `M` and
`VEL` are unwritten there. In `Failed` every command but `ACK` is answered `REJ_STATE` and every event
is dropped. -/
def Obligations.FailedEntryIsExact : Prop :=
  (∀ (i : Instr) (s t : State), exec i s = .next t → s.regs.st ≠ .failed → t.regs.st = .failed →
    (((∃ e, i = .terr e ∧
        t.regs = { s.regs with st := .failed, err := some .transport, te := some e }) ∨
      (∃ p, i = .rxdone p ∧ validPacket p = false ∧
        t.regs = { s.regs with st := .failed, v := some false, err := some .checksumFailed })) ∧
      (∀ look, (t.pins look).done = 1) ∧
      (s.Inv → t.regs.m = none ∧ t.regs.vel = none))) ∧
    (∀ (i : Instr) (s : State), s.regs.st = .failed → i ≠ .ack →
      exec i s = .next
        { s with ports :=
            { resp := if isCommand i then some .rejState else none, treq := .none } })

/-- R100: `ST` moves by the table of R100 and by no other edge: an instruction takes it to the row's next
state, an illegal or reserved word and the absence of an event leave it, and reset makes it `Idle`. -/
def Obligations.StateMachineFollowsTable : Prop :=
  (∀ (i : Instr) (s t : State), exec i s = .next t → t.regs.st = nextSt s.regs i) ∧
    (∀ (d : Decoded) (s t : State), (∀ i, d ≠ .instr i) → runDecoded d s = .next t →
      t.regs = s.regs) ∧
    (∀ (s t : State), takeTurn .rst s = .next t → t.regs.st = .idle) ∧
    (∀ (s t : State), takeTurn .nothing s = .next t → t.regs = s.regs)

/-- R111: a step emits `READ5` or `TXN0` exactly when it takes a start command in `Idle`, one request, and
`CANCEL` exactly when it takes `ABORT` in `Reading`; no event, reject or reset emits anything. -/
def Obligations.OneRequestPerAcceptedStart : Prop :=
  ∀ s t : State, step s = .next t →
    ((t.ports.treq = .read5 ∨ t.ports.treq = .txn0) ↔
      ∃ w i, s.nextTurn.1 = .wire w ∧ decode w = .instr i ∧ (startKind i).isSome = true ∧
        s.regs.st = .idle) ∧
      (t.ports.treq = .txn0 ↔
        ∃ w, s.nextTurn.1 = .wire w ∧ decode w = .instr .probe ∧ s.regs.st = .idle) ∧
      (t.ports.treq = .cancel ↔
        ∃ w, s.nextTurn.1 = .wire w ∧ decode w = .instr .abort ∧ s.regs.st = .reading)

/-- R112: `Decoded` is reached by a read only through a packet that passed `validate`, and what is
presented is its `extract`, for `READVEL` with the full `interp` of it. -/
def Obligations.DecodedOnlyFromValidPacket : Prop :=
  ∀ (i : Instr) (s t : State), exec i s = .next t → s.regs.st ≠ .decoded → t.regs.st = .decoded →
    s.regs.kind ≠ .probe →
    ∃ p, i = .rxdone p ∧ validPacket p = true ∧ t.regs.m = some (extractRaw p) ∧
      (s.regs.kind = .vel → t.regs.vel = some (interp s.params.table (extractRaw p)))

/-! ## The step -/

/-- A port value that is the next input and decodes to an instruction is run by `exec` on the state with
that input taken: a step adds nothing else. -/
def Obligations.StepRunsDecodedInstr : Prop :=
  ∀ (s : State) (w : Wire) (i : Instr) (rest : List Input),
    s.inbox = .wire w :: rest → decode w = .instr i → i.wf = true →
    step s = exec i { s with inbox := rest }

/-- R140, R23, R141: `rst`, in any state, puts every register at its reset value, emits nothing, answers
nothing and leaves the parameters alone. -/
def Obligations.ResetRestoresEveryRegister : Prop :=
  ∀ (s : State) (rest : List Input), s.inbox = .rst :: rest →
    step s = .next
      { s with
        regs :=
          { st := .idle, kind := .none, v := none, m := none, vel := none, err := none, te := none }
        ports := { resp := none, treq := .none }
        inbox := rest }

/-- The machine the model starts from holds the reset values of R23 and the invariant of R24, with any
parameters. -/
def Obligations.ResetStateHasInvariant : Prop :=
  (∀ p : Params, (State.resetOf p).Inv ∧ (State.resetOf p).regs = Regs.reset) ∧
    State.reset.Inv ∧ State.reset.params.addr = 0x28 ∧
    State.reset.params.table = builtinTable State.reset.params.variant

/-- R24: every step, whatever the input, keeps the invariant of the state. -/
def Obligations.StepKeepsInvariant : Prop :=
  ∀ s t : State, s.Inv → step s = .next t → t.Inv

/-- R2, R4, R19, R35, R89: no command, event or reset changes the variant, the table or the bus address,
and the outputs `variant` and `taddr` keep showing them. -/
def Obligations.ParametersNeverChange : Prop :=
  ∀ s t : State, step s = .next t →
    t.params = s.params ∧
      ∀ look look', (t.pins look).variant = (s.pins look').variant ∧
        (t.pins look).taddr = (s.pins look').taddr

/-- R120: no input makes the unit stop: every step from every state answers a next state. -/
def Obligations.EveryStepAnswers : Prop :=
  ∀ s : State, ∃ t, step s = .next t

/-- R131: the unit has no timeout: with nothing presented it stays as it is for any number of steps, in
`Reading` too. -/
def Obligations.WaitsWithoutLimit : Prop :=
  ∀ (n : Nat) (s : State), s.inbox = [] →
    ∃ t, Host.Core.run Sys2Proof.core n s = .next t ∧ t.regs = s.regs ∧ t.inbox = []

/-- R41, R126 item 3: a command and an event of the same moment are taken one after the other, in one of
the two orders. -/
def Obligations.SimultaneousInputsAreSerialized : Prop :=
  ∀ (s : State) (cw : CommandWord) (e : Event) (rest : List Input),
    s.inbox = .together cw e :: rest →
    step s = step
        { s with inbox := .wire (.command cw) :: .wire (.event e) :: rest, ties := s.ties + 1 } ∨
      step s = step
        { s with inbox := .wire (.event e) :: .wire (.command cw) :: rest, ties := s.ties + 1 }

/-- R126 item 3: the order of a command and an event is visible, in the final registers or in the
response, exactly in the three pairings the rule lists. -/
def Obligations.OrderVisibleExactlyInThreePairings : Prop :=
  ∀ (s : State) (c e : Instr), isCommand c = true → isCommand e = false →
    (commandThenEvent s (.instr c) (.instr e) ≠ eventThenCommand s (.instr c) (.instr e) ↔
      orderVisible s.regs c e)

/-! ## Operations as a whole -/

/-- R104, R105, R113: on an idle unit, whatever its registers held, `READVEL` and then `RXDONE` give the
host `Ok(interp(extract(p)))` for a valid packet and `ChecksumFailed` for an invalid one, `READRAW`
gives `Ok(extract(p))` or `ChecksumFailed`, and `ACK` then leaves the registers of reset. -/
def Obligations.ReadOperationsReturnSourceResults : Prop :=
  ∀ (s : State) (p : Packet), s.regs.st = .idle →
    (∃ t, Host.Core.run Sys2Proof.core 2
        { s with inbox := [.wire (encode .readvel), .wire (encode (.rxdone p))] } = .next t ∧
      t.regs.clientResult = some (if validPacket p
        then .velocity (interp s.params.table (extractRaw p)) else .checksumFailed) ∧
      ∃ u, exec .ack t = .next u ∧ u.regs = Regs.reset) ∧
    (∃ t, Host.Core.run Sys2Proof.core 2
        { s with inbox := [.wire (encode .readraw), .wire (encode (.rxdone p))] } = .next t ∧
      t.regs.clientResult = some (if validPacket p
        then .measurement (extractRaw p) else .checksumFailed) ∧
      ∃ u, exec .ack t = .next u ∧ u.regs = Regs.reset)

/-- R102, R106, R107, R113: on an idle unit `PROBE` returns `Ok(())` after `TXNDONE`, and each of the
three operations returns the transport's error, unmodified, after `TERR`. -/
def Obligations.ProbeAndTransportErrorsReturnSourceResults : Prop :=
  ∀ s : State, s.regs.st = .idle →
    (∃ t, Host.Core.run Sys2Proof.core 2
        { s with inbox := [.wire (encode .probe), .wire (encode .txndone)] } = .next t ∧
      t.regs.clientResult = some .present) ∧
    (∀ (i : Instr) (e : TErr), (startKind i).isSome = true →
      ∃ t, Host.Core.run Sys2Proof.core 2
          { s with inbox := [.wire (encode i), .wire (encode (.terr e))] } = .next t ∧
        t.regs.clientResult = some (.transportError e))

/-- R8, R11, R101: no caching. Two idle units with the same parameters and the same inputs, the first of
them a start command, run alike from then on, whatever their registers held before. -/
def Obligations.NothingSurvivesAStartCommand : Prop :=
  ∀ (s s' : State) (i : Instr) (rest : List Input) (n : Nat),
    s.regs.st = .idle → s'.regs.st = .idle → (startKind i).isSome = true →
    s.params = s'.params → s.ties = s'.ties →
    s.inbox = .wire (encode i) :: rest → s'.inbox = .wire (encode i) :: rest →
    Host.Core.run Sys2Proof.core (n + 1) s = Host.Core.run Sys2Proof.core (n + 1) s'

/-- R147, R110: under a transport that keeps its duties no event is dropped: the event that is the next
input ends the operation. -/
def Obligations.HonestEventEndsOperation : Prop :=
  ∀ (s : State) (e : Event) (rest : List Input) (i : Instr),
    s.inbox = .wire (.event e) :: rest → decodeEvent e = .instr i → transportHonest s →
    ∃ t, step s = .next t ∧ doneFlag t.regs.st = true ∧ t.regs.kind = s.regs.kind ∧
      t.regs.err.isSome = true

/-- R15 to R19, R21, R57, R58, R60: the outputs show the registers and the step ports in the numbers of
those rules, `done` exactly in `Decoded` and `Failed`, and the parameters. -/
def Obligations.OutputsShowRegisters : Prop :=
  ∀ (s : State) (look : Nat),
    (s.pins look).st.toNat =
        (match s.regs.st with | .idle => 0 | .reading => 1 | .decoded => 2 | .failed => 3) ∧
      (s.pins look).kind.toNat =
        (match s.regs.kind with | .none => 0 | .probe => 1 | .raw => 2 | .vel => 3) ∧
      ((s.pins look).done = 1 ↔ s.regs.st = .decoded ∨ s.regs.st = .failed) ∧
      (∀ b, s.regs.v = some b → ((s.pins look).v = 1 ↔ b = true)) ∧
      (∀ m, s.regs.m = some m → (s.pins look).m = m) ∧
      (∀ x, s.regs.vel = some x → (s.pins look).vel = x) ∧
      (∀ e, s.regs.err = some e → (s.pins look).err.toNat =
        (match e with | .none => 0 | .transport => 1 | .checksumFailed => 2)) ∧
      (∀ e, s.regs.te = some e → (s.pins look).te = e) ∧
      (∀ c, s.ports.resp = some c → (s.pins look).resp.toNat =
        (match c with | .accept => 0 | .rejIllegal => 1 | .rejReserved => 2 | .rejState => 3)) ∧
      (s.pins look).treq.toNat =
        (match s.ports.treq with | .none => 0 | .read5 => 1 | .txn0 => 2 | .cancel => 3) ∧
      (s.pins look).taddr = s.params.addr ∧
      ((s.pins look).variant = 1 ↔ s.params.variant = .wide)

/-- THE MODEL'S CHOICE, log entries 6 and 7, where R11 and U10 leave the pattern open: what the pins of an
unwritten register show, and `resp` where no command was answered, depends on the look alone and not
on the state. -/
def Obligations.UnwrittenPinsDependOnLookAlone : Prop :=
  ∀ (s s' : State) (look : Nat),
    (s.regs.v = none → s'.regs.v = none → (s.pins look).v = (s'.pins look).v) ∧
      (s.regs.m = none → s'.regs.m = none → (s.pins look).m = (s'.pins look).m) ∧
      (s.regs.vel = none → s'.regs.vel = none → (s.pins look).vel = (s'.pins look).vel) ∧
      (s.regs.err = none → s'.regs.err = none → (s.pins look).err = (s'.pins look).err) ∧
      (s.regs.te = none → s'.regs.te = none → (s.pins look).te = (s'.pins look).te) ∧
      (s.ports.resp = none → s'.ports.resp = none → (s.pins look).resp = (s'.pins look).resp)

/-- What BinaryOperationsRoundCorrectly leaves out: exact results above the largest finite magnitude, and
operands that are not finite. R85 says only that these are the IEEE 754 operations; what is stated
here is THE MODEL'S READING of that, log entry 9. The bits of a NaN are free. -/
def Obligations.OverflowAndSpecialOperands : Prop :=
  ∀ a b : F32,
    (isFinite a = true → isFinite b = true →
      roundsAtTop (valueOf a + valueOf b) (fadd a b) ∧
        roundsAtTop (valueOf a - valueOf b) (fsub a b) ∧
        roundsAtTop (valueOf a * valueOf b) (fmul a b) ∧
        (valueOf b ≠ 0 → roundsAtTop (valueOf a / valueOf b) (fdiv a b)) ∧
        (valueOf b = 0 → valueOf a ≠ 0 → fdiv a b = infinity (signOf a != signOf b)) ∧
        (valueOf b = 0 → valueOf a = 0 → isNaN (fdiv a b) = true)) ∧
      (isNaN a = true ∨ isNaN b = true →
        isNaN (fadd a b) = true ∧ isNaN (fsub a b) = true ∧ isNaN (fmul a b) = true ∧
          isNaN (fdiv a b) = true) ∧
      (isInf a = true → isFinite b = true →
        fadd a b = a ∧ fsub a b = a ∧ fdiv a b = infinity (signOf a != signOf b) ∧
          (valueOf b ≠ 0 → fmul a b = infinity (signOf a != signOf b)) ∧
          (valueOf b = 0 → isNaN (fmul a b) = true)) ∧
      (isFinite a = true → isInf b = true →
        fadd a b = b ∧ fsub a b = negF32 b ∧ fdiv a b = packF32 (signOf a != signOf b) 0 ∧
          (valueOf a ≠ 0 → fmul a b = infinity (signOf a != signOf b)) ∧
          (valueOf a = 0 → isNaN (fmul a b) = true)) ∧
      (isInf a = true → isInf b = true →
        fmul a b = infinity (signOf a != signOf b) ∧ isNaN (fdiv a b) = true ∧
          (signOf a = signOf b → fadd a b = a ∧ isNaN (fsub a b) = true) ∧
          (signOf a ≠ signOf b → isNaN (fadd a b) = true ∧ fsub a b = a))
end

