-- ==== Sys2Proof/Laws/Decode.lean ====
section
/-! SUPPORT. The fields the encoder joins, as numbers: what arithmetic over the decoder's slices starts
from. -/

namespace Sys2Proof

/-- Joining two fields, as numbers. -/
theorem toNat_join {n k : Nat} (a : BitVec n) (b : BitVec k) :
    (a ++ b).toNat = a.toNat * 2 ^ k + b.toNat := by
  rw [BitVec.toNat_append, ← Nat.shiftLeft_add_eq_or_of_lt b.isLt, Nat.shiftLeft_eq]

theorem commandWord_toNat (op : BitVec 8) (d : BitVec 40) :
    (commandWord op d).toNat = op.toNat * 2 ^ 40 + d.toNat :=
  toNat_join op d

theorem operandM_toNat (m : Raw) : (operandM m).toNat = m.toNat := by
  have h : (operandM m).toNat = (0 : BitVec 28).toNat * 2 ^ 12 + m.toNat := toNat_join 0 m
  rw [h]
  simp

theorem bitsOfPacket_toNat (p : Packet) :
    (bitsOfPacket p).toNat =
      p.b0.toNat * 2 ^ 32 + p.b1.toNat * 2 ^ 24 + p.b2.toNat * 2 ^ 16 + p.b3.toNat * 2 ^ 8
        + p.b4.toNat := by
  have h : (bitsOfPacket p).toNat =
      (p.b0 ++ p.b1 ++ p.b2 ++ p.b3).toNat * 2 ^ 8 + p.b4.toNat :=
    toNat_join (p.b0 ++ p.b1 ++ p.b2 ++ p.b3) p.b4
  rw [h, toNat_join (p.b0 ++ p.b1 ++ p.b2) p.b3, toNat_join (p.b0 ++ p.b1) p.b2,
    toNat_join p.b0 p.b1]
  omega

theorem opcodeOf_toNat (cw : CommandWord) : (opcodeOf cw).toNat = cw.toNat / 2 ^ 40 := by
  have h := cw.isLt
  rw [opcodeOf, BitVec.extractLsb'_toNat, Nat.shiftRight_eq_div_pow]
  omega

theorem operandOf_toNat (cw : CommandWord) : (operandOf cw).toNat = cw.toNat % 2 ^ 40 := by
  rw [operandOf, BitVec.extractLsb'_toNat, Nat.shiftRight_eq_div_pow, Nat.pow_zero, Nat.div_one]

theorem entryOf_toNat (p : CalPoint) :
    (Machine.entryOf p).toNat = p.raw.toNat * 2 ^ 32 + p.vel.toNat :=
  toNat_join p.raw p.vel

end Sys2Proof
end

