-- ==== Sys2Proof/Laws/State.lean ====
section
/-! SUPPORT. What each update of the state leaves in each of its fields. -/

namespace Sys2Proof.Machine

@[simp] theorem State.setV_regs (b : Bool) (s : State) :
    (s.setV b).regs = { s.regs with v := some b } := rfl
@[simp] theorem State.setV_params (b : Bool) (s : State) : (s.setV b).params = s.params := rfl
@[simp] theorem State.setV_ports (b : Bool) (s : State) : (s.setV b).ports = s.ports := rfl
@[simp] theorem State.setV_inbox (b : Bool) (s : State) : (s.setV b).inbox = s.inbox := rfl
@[simp] theorem State.setV_ties (b : Bool) (s : State) : (s.setV b).ties = s.ties := rfl

@[simp] theorem State.setM_regs (m : Raw) (s : State) :
    (s.setM m).regs = { s.regs with m := some m } := rfl
@[simp] theorem State.setM_params (m : Raw) (s : State) : (s.setM m).params = s.params := rfl
@[simp] theorem State.setM_ports (m : Raw) (s : State) : (s.setM m).ports = s.ports := rfl
@[simp] theorem State.setM_inbox (m : Raw) (s : State) : (s.setM m).inbox = s.inbox := rfl
@[simp] theorem State.setM_ties (m : Raw) (s : State) : (s.setM m).ties = s.ties := rfl

@[simp] theorem State.setVel_regs (x : F32) (s : State) :
    (s.setVel x).regs = { s.regs with vel := some x } := rfl
@[simp] theorem State.setVel_params (x : F32) (s : State) : (s.setVel x).params = s.params := rfl
@[simp] theorem State.setVel_ports (x : F32) (s : State) : (s.setVel x).ports = s.ports := rfl
@[simp] theorem State.setVel_inbox (x : F32) (s : State) : (s.setVel x).inbox = s.inbox := rfl
@[simp] theorem State.setVel_ties (x : F32) (s : State) : (s.setVel x).ties = s.ties := rfl

@[simp] theorem State.setErr_regs (e : Err) (s : State) :
    (s.setErr e).regs = { s.regs with err := some e } := rfl
@[simp] theorem State.setErr_params (e : Err) (s : State) : (s.setErr e).params = s.params := rfl
@[simp] theorem State.setErr_ports (e : Err) (s : State) : (s.setErr e).ports = s.ports := rfl
@[simp] theorem State.setErr_inbox (e : Err) (s : State) : (s.setErr e).inbox = s.inbox := rfl
@[simp] theorem State.setErr_ties (e : Err) (s : State) : (s.setErr e).ties = s.ties := rfl

@[simp] theorem State.setTe_regs (e : TErr) (s : State) :
    (s.setTe e).regs = { s.regs with te := some e } := rfl
@[simp] theorem State.setTe_params (e : TErr) (s : State) : (s.setTe e).params = s.params := rfl
@[simp] theorem State.setTe_ports (e : TErr) (s : State) : (s.setTe e).ports = s.ports := rfl
@[simp] theorem State.setTe_inbox (e : TErr) (s : State) : (s.setTe e).inbox = s.inbox := rfl
@[simp] theorem State.setTe_ties (e : TErr) (s : State) : (s.setTe e).ties = s.ties := rfl

@[simp] theorem State.setSt_regs (st : St) (s : State) :
    (s.setSt st).regs = { s.regs with st := st } := rfl
@[simp] theorem State.setSt_params (st : St) (s : State) : (s.setSt st).params = s.params := rfl
@[simp] theorem State.setSt_ports (st : St) (s : State) : (s.setSt st).ports = s.ports := rfl
@[simp] theorem State.setSt_inbox (st : St) (s : State) : (s.setSt st).inbox = s.inbox := rfl
@[simp] theorem State.setSt_ties (st : St) (s : State) : (s.setSt st).ties = s.ties := rfl

@[simp] theorem State.setKind_regs (k : Kind) (s : State) :
    (s.setKind k).regs = { s.regs with kind := k } := rfl
@[simp] theorem State.setKind_params (k : Kind) (s : State) : (s.setKind k).params = s.params := rfl
@[simp] theorem State.setKind_ports (k : Kind) (s : State) : (s.setKind k).ports = s.ports := rfl
@[simp] theorem State.setKind_inbox (k : Kind) (s : State) : (s.setKind k).inbox = s.inbox := rfl
@[simp] theorem State.setKind_ties (k : Kind) (s : State) : (s.setKind k).ties = s.ties := rfl

@[simp] theorem State.clearResults_regs (s : State) :
    (s.clearResults).regs = { s.regs with v := none, m := none, vel := none, err := none, te := none } := rfl
@[simp] theorem State.clearResults_params (s : State) : (s.clearResults).params = s.params := rfl
@[simp] theorem State.clearResults_ports (s : State) : (s.clearResults).ports = s.ports := rfl
@[simp] theorem State.clearResults_inbox (s : State) : (s.clearResults).inbox = s.inbox := rfl
@[simp] theorem State.clearResults_ties (s : State) : (s.clearResults).ties = s.ties := rfl

@[simp] theorem State.quiet_ports (s : State) :
    (s.quiet).ports = Ports.silent := rfl
@[simp] theorem State.quiet_params (s : State) : (s.quiet).params = s.params := rfl
@[simp] theorem State.quiet_regs (s : State) : (s.quiet).regs = s.regs := rfl
@[simp] theorem State.quiet_inbox (s : State) : (s.quiet).inbox = s.inbox := rfl
@[simp] theorem State.quiet_ties (s : State) : (s.quiet).ties = s.ties := rfl

@[simp] theorem State.respond_ports (c : Resp) (s : State) :
    (s.respond c).ports = { resp := some c, treq := .none } := rfl
@[simp] theorem State.respond_params (c : Resp) (s : State) : (s.respond c).params = s.params := rfl
@[simp] theorem State.respond_regs (c : Resp) (s : State) : (s.respond c).regs = s.regs := rfl
@[simp] theorem State.respond_inbox (c : Resp) (s : State) : (s.respond c).inbox = s.inbox := rfl
@[simp] theorem State.respond_ties (c : Resp) (s : State) : (s.respond c).ties = s.ties := rfl

@[simp] theorem State.acceptEmit_ports (q : TReq) (s : State) :
    (s.acceptEmit q).ports = { resp := some .accept, treq := q } := rfl
@[simp] theorem State.acceptEmit_params (q : TReq) (s : State) : (s.acceptEmit q).params = s.params := rfl
@[simp] theorem State.acceptEmit_regs (q : TReq) (s : State) : (s.acceptEmit q).regs = s.regs := rfl
@[simp] theorem State.acceptEmit_inbox (q : TReq) (s : State) : (s.acceptEmit q).inbox = s.inbox := rfl
@[simp] theorem State.acceptEmit_ties (q : TReq) (s : State) : (s.acceptEmit q).ties = s.ties := rfl

@[simp] theorem State.resetUnit_regs (s : State) : s.resetUnit.regs = Regs.reset := rfl
@[simp] theorem State.resetUnit_ports (s : State) : s.resetUnit.ports = Ports.silent := rfl
@[simp] theorem State.resetUnit_params (s : State) : s.resetUnit.params = s.params := rfl
@[simp] theorem State.resetUnit_inbox (s : State) : s.resetUnit.inbox = s.inbox := rfl
@[simp] theorem State.resetUnit_ties (s : State) : s.resetUnit.ties = s.ties := rfl

@[simp] theorem leave_regs (s : State) :
    (leave s).regs =
      { st := .idle, kind := .none, v := none, m := none, vel := none, err := none, te := none } := rfl
@[simp] theorem leave_params (s : State) : (leave s).params = s.params := rfl
@[simp] theorem leave_ports (s : State) : (leave s).ports = s.ports := rfl
@[simp] theorem leave_inbox (s : State) : (leave s).inbox = s.inbox := rfl
@[simp] theorem leave_ties (s : State) : (leave s).ties = s.ties := rfl

@[simp] theorem State.presentFirst_inbox (w : Wire) (s : State) :
    (s.presentFirst w).inbox = .wire w :: s.inbox := rfl
@[simp] theorem State.presentFirst_regs (w : Wire) (s : State) :
    (s.presentFirst w).regs = s.regs := rfl
@[simp] theorem State.presentFirst_params (w : Wire) (s : State) :
    (s.presentFirst w).params = s.params := rfl

end Sys2Proof.Machine
end

