-- ==== Sys2Proof/Laws/Ops.lean ====
section
/-! SUPPORT. What each shared operation can answer, said once. -/

namespace Sys2Proof.Machine

theorem whenAccepted_of_true {accepts : St → Bool} {s : State} {body : Result}
    (h : accepts s.regs.st = true) : whenAccepted accepts s body = body := by
  simp [whenAccepted, h]

theorem whenAccepted_of_false {accepts : St → Bool} {s : State} {body : Result}
    (h : accepts s.regs.st = false) :
    whenAccepted accepts s body = .next (s.respond .rejState) := by
  simp [whenAccepted, reject, h]

/-- A command either is accepted and does what its body says, or is answered `REJ_STATE`. -/
theorem whenAccepted_cases {accepts : St → Bool} {s t : State} {body : Result}
    (h : whenAccepted accepts s body = .next t) :
    (accepts s.regs.st = true ∧ body = .next t) ∨
      (accepts s.regs.st = false ∧ t = s.respond .rejState) := by
  cases ha : accepts s.regs.st with
  | true => exact .inl ⟨rfl, by rwa [whenAccepted_of_true ha] at h⟩
  | false =>
    rw [whenAccepted_of_false ha] at h
    exact .inr ⟨rfl, (Host.Outcome.next.inj h).symm⟩

theorem acceptsStart_iff {st : St} : acceptsStart st = true ↔ st = .idle := by
  cases st <;> simp [acceptsStart]

theorem acceptsAck_iff {st : St} : acceptsAck st = true ↔ st = .decoded ∨ st = .failed := by
  cases st <;> simp [acceptsAck]

theorem acceptsAbort_iff {st : St} : acceptsAbort st = true ↔ st = .reading := by
  cases st <;> simp [acceptsAbort]

/-- A start command clears, requests and enters `Reading`, or is answered `REJ_STATE`. -/
theorem start_cases {k : Kind} {q : TReq} {s t : State} (h : start k q s = .next t) :
    (s.regs.st = .idle ∧ t = ((s.clearResults.setKind k).setSt .reading).acceptEmit q) ∨
      (s.regs.st ≠ .idle ∧ t = s.respond .rejState) := by
  rcases whenAccepted_cases h with ⟨ha, hb⟩ | ⟨ha, hb⟩
  · exact .inl ⟨acceptsStart_iff.1 ha, (Host.Outcome.next.inj hb).symm⟩
  · refine .inr ⟨fun hs => ?_, hb⟩
    rw [hs] at ha
    cases ha

/-- Entering `Failed` writes `ERR`, `ST` and the one register its cause records. -/
theorem fail_regs {f : Failure} {s t : State} (h : fail f s = .next t) :
    t.regs = (match f with
      | .transport e =>
        { s.regs with st := .failed, err := some .transport, te := some e }
      | .checksum =>
        { s.regs with st := .failed, err := some .checksumFailed, v := some false }) := by
  cases f <;> (cases h; rfl)

/-- Entering `Failed` answers no command, requests nothing and touches nothing outside the registers. -/
theorem fail_frame {f : Failure} {s t : State} (h : fail f s = .next t) :
    t.params = s.params ∧ t.ports = Ports.silent ∧ t.inbox = s.inbox ∧ t.ties = s.ties := by
  cases f <;> (cases h; exact ⟨rfl, rfl, rfl, rfl⟩)

theorem succeed_cases {s t : State} (h : succeed s = .next t) :
    t.regs = { s.regs with st := .decoded, err := some .none } ∧ t.ports = Ports.silent ∧
      t.params = s.params ∧ t.inbox = s.inbox ∧ t.ties = s.ties := by
  cases h
  exact ⟨rfl, rfl, rfl, rfl, rfl⟩

/-- Delivering a packet writes `V`, `M` and, for a `READVEL`, `VEL`. -/
theorem deliver_regs (p : Packet) (s : State) :
    (deliver p s).regs =
      { s.regs with
        v := some true
        m := some (extractRaw p)
        vel := if s.regs.kind = .vel then some (interp s.params.table (extractRaw p))
          else s.regs.vel } := by
  unfold deliver
  split <;> rfl

theorem deliver_frame (p : Packet) (s : State) :
    (deliver p s).params = s.params ∧ (deliver p s).ports = s.ports ∧
      (deliver p s).inbox = s.inbox ∧ (deliver p s).ties = s.ties := by
  unfold deliver
  split <;> exact ⟨rfl, rfl, rfl, rfl⟩

/-- Taking the next turn touches only the inbox and the number of ties. -/
theorem nextTurn_frame (s : State) :
    s.nextTurn.2.params = s.params ∧ s.nextTurn.2.regs = s.regs ∧
      s.nextTurn.2.ports = s.ports := by
  unfold State.nextTurn
  split
  · exact ⟨rfl, rfl, rfl⟩
  · exact ⟨rfl, rfl, rfl⟩
  · exact ⟨rfl, rfl, rfl⟩
  · split <;> exact ⟨rfl, rfl, rfl⟩

/-- What a step can do: wait, run an instruction, refuse a word, pass over an absent event, or reset. -/
theorem step_cases {s t : State} (h : step s = .next t) :
    (s.nextTurn.1 = .nothing ∧ t = s.nextTurn.2.quiet) ∨
      (∃ w i, s.nextTurn.1 = .wire w ∧ decode w = .instr i ∧ exec i s.nextTurn.2 = .next t) ∨
      (∃ w, s.nextTurn.1 = .wire w ∧ decode w = .illegal ∧
        t = s.nextTurn.2.respond .rejIllegal) ∨
      (∃ w, s.nextTurn.1 = .wire w ∧ decode w = .reserved ∧
        t = s.nextTurn.2.respond .rejReserved) ∨
      (∃ w, s.nextTurn.1 = .wire w ∧ decode w = .noEvent ∧ t = s.nextTurn.2.quiet) ∨
      (s.nextTurn.1 = .rst ∧ t = s.nextTurn.2.resetUnit) := by
  unfold step at h
  cases hturn : s.nextTurn.1 with
  | nothing =>
    rw [hturn] at h
    exact .inl ⟨rfl, (Host.Outcome.next.inj h).symm⟩
  | rst =>
    rw [hturn] at h
    exact .inr (.inr (.inr (.inr (.inr ⟨rfl, (Host.Outcome.next.inj h).symm⟩))))
  | wire w =>
    rw [hturn] at h
    change runDecoded (decode w) s.nextTurn.2 = .next t at h
    cases hd : decode w with
    | instr i =>
      rw [hd] at h
      exact .inr (.inl ⟨w, i, rfl, hd, h⟩)
    | illegal =>
      rw [hd] at h
      exact .inr (.inr (.inl ⟨w, rfl, hd, (Host.Outcome.next.inj h).symm⟩))
    | reserved =>
      rw [hd] at h
      exact .inr (.inr (.inr (.inl ⟨w, rfl, hd, (Host.Outcome.next.inj h).symm⟩)))
    | noEvent =>
      rw [hd] at h
      exact .inr (.inr (.inr (.inr (.inl ⟨w, rfl, hd, (Host.Outcome.next.inj h).symm⟩))))

end Sys2Proof.Machine
end

