-- ==== Sys2Proof/Laws/PerInstr.lean ====
section
/-! SUPPORT. What holds of each instruction as syntax: the fixed fields of its encoding. -/

namespace Sys2Proof.Laws.EncodedFields

open Sys2Proof Sys2Proof.Machine

/-- The code of an instruction on its port: the opcode of a command (R55), `tkind` of an event (R59). -/
def portCode : Instr → Nat
  | .validate _ => 0x01
  | .extract _ => 0x02
  | .interp _ => 0x03
  | .probe => 0x04
  | .readraw => 0x05
  | .readvel => 0x06
  | .ack => 0x07
  | .abort => 0x08
  | .rxdone _ => 1
  | .txndone => 2
  | .terr _ => 3

/-- A command is encoded on the command port with its opcode in `cw[47:40]` (R51), an event on the event
port with its kind in `tkind` (R59). -/
def Statement (i : Instr) : Prop :=
  match encode i with
  | .command cw => isCommand i = true ∧ (opcodeOf cw).toNat = portCode i
  | .event e => isCommand i = false ∧ e.tkind.toNat = portCode i

theorem opcodeOf_commandWord (op : BitVec 8) (d : BitVec 40) : opcodeOf (commandWord op d) = op := by
  apply BitVec.eq_of_toNat_eq
  rw [opcodeOf_toNat, commandWord_toNat]
  omega

theorem validate (p : Packet) : Statement (.validate p) :=
  ⟨rfl, by rw [opcodeOf_commandWord]; rfl⟩

theorem extract (p : Packet) : Statement (.extract p) :=
  ⟨rfl, by rw [opcodeOf_commandWord]; rfl⟩

theorem interp (m : Raw) : Statement (.interp m) :=
  ⟨rfl, by rw [opcodeOf_commandWord]; rfl⟩

theorem probe : Statement .probe := ⟨rfl, by decide⟩

theorem readraw : Statement .readraw := ⟨rfl, by decide⟩

theorem readvel : Statement .readvel := ⟨rfl, by decide⟩

theorem ack : Statement .ack := ⟨rfl, by decide⟩

theorem abort : Statement .abort := ⟨rfl, by decide⟩

theorem rxdone (p : Packet) : Statement (.rxdone p) := ⟨rfl, rfl⟩

theorem txndone : Statement .txndone := ⟨rfl, rfl⟩

theorem terr (e : TErr) : Statement (.terr e) := ⟨rfl, rfl⟩

end Sys2Proof.Laws.EncodedFields
end

