-- ==== Sys2Proof/Laws/Rom.lean ====
section
/-! SUPPORT. The ROM read inside its range, the order of the thresholds, and what the segment search
answers. -/

namespace Sys2Proof.Machine

theorem romRead_of_lt {t : CalTable} {k : Nat} (h : k < t.points.length) :
    romRead t k = t.points[k] := by
  simp [romRead, List.getElem?_eq_getElem h]

/-- Every threshold after `low` is above it, and the thresholds rise. -/
theorem pairwise_of_risingFrom {low : Raw} {points : List CalPoint}
    (h : risingFrom low points = true) :
    (∀ p ∈ points, low.toNat < p.raw.toNat) ∧
      points.Pairwise (fun p q => p.raw.toNat < q.raw.toNat) := by
  induction points generalizing low with
  | nil => simp
  | cons p rest ih =>
    simp only [risingFrom, Bool.and_eq_true, BitVec.ult, decide_eq_true_eq] at h
    obtain ⟨hp, hrest⟩ := ih h.2
    refine ⟨fun q hq => ?_, List.pairwise_cons.2 ⟨hp, hrest⟩⟩
    rcases List.mem_cons.1 hq with rfl | hq
    · exact h.1
    · exact lt_trans h.1 (hp q hq)

/-- The canonical form of a table: its thresholds are strictly increasing (R3). -/
theorem thresholds_rise (t : CalTable) :
    t.points.Pairwise (fun p q => p.raw.toNat < q.raw.toNat) := by
  have h := t.wf
  simp only [tableWf, Bool.and_eq_true] at h
  cases hp : t.points with
  | nil => exact List.Pairwise.nil
  | cons p rest =>
    rw [hp] at h
    obtain ⟨h1, h2⟩ := pairwise_of_risingFrom h.2
    exact List.pairwise_cons.2 ⟨h1, h2⟩

theorem two_le_length (t : CalTable) : 2 ≤ t.points.length := by
  have h := t.wf
  simp only [tableWf, atLeastTwo, Bool.and_eq_true, decide_eq_true_eq] at h
  exact h.1

/-- The scan finds the highest index below its start whose threshold is not above `m`. -/
theorem segBelow_some {t : CalTable} {m : Raw} {n i : Nat} (h : segBelow t m n = some i) :
    i < n ∧ (rawAt t i).toNat ≤ m.toNat ∧
      ∀ j, i < j → j < n → m.toNat < (rawAt t j).toNat := by
  induction n with
  | zero => simp [segBelow] at h
  | succ k ih =>
    by_cases hc : (rawAt t k).toNat ≤ m.toNat
    · have hk : segBelow t m (k + 1) = some k := by simp [segBelow, BitVec.ule, hc]
      obtain rfl := Option.some.inj (hk.symm.trans h)
      exact ⟨by omega, hc, fun j h1 h2 => by omega⟩
    · have hk : segBelow t m (k + 1) = segBelow t m k := by simp [segBelow, BitVec.ule, hc]
      obtain ⟨h1, h2, h3⟩ := ih (hk.symm.trans h)
      refine ⟨by omega, h2, fun j hj hjk => ?_⟩
      rcases Nat.lt_or_ge j k with hlt | hge
      · exact h3 j hj hlt
      · obtain rfl : j = k := by omega
        omega

/-- The scan finds nothing exactly when every threshold it looks at is above `m`. -/
theorem segBelow_none_iff {t : CalTable} {m : Raw} {n : Nat} :
    segBelow t m n = none ↔ ∀ j, j < n → m.toNat < (rawAt t j).toNat := by
  induction n with
  | zero => simp [segBelow]
  | succ k ih =>
    by_cases hc : (rawAt t k).toNat ≤ m.toNat
    · have hk : segBelow t m (k + 1) = some k := by simp [segBelow, BitVec.ule, hc]
      rw [hk]
      constructor
      · intro h
        cases h
      · intro h
        have := h k (by omega)
        omega
    · have hk : segBelow t m (k + 1) = segBelow t m k := by simp [segBelow, BitVec.ule, hc]
      rw [hk, ih]
      refine ⟨fun h j hj => ?_, fun h j hj => h j (by omega)⟩
      rcases Nat.lt_or_ge j k with hlt | hge
      · exact h j hlt
      · obtain rfl : j = k := by omega
        omega

end Sys2Proof.Machine
end

