-- ==== Sys2Proof/Tests/Slice0.lean ====
section
/-! SUPPORT. Tests with expected results from the spec (spec/95_test_vectors.md unless said otherwise),
and for each obligation with hypotheses a witness that meets them. -/

namespace Sys2Proof.Tests

open Sys2Proof Sys2Proof.Machine

/-! ## Helpers -/

/-- A unit of the given variant at the default address. -/
def unit (v : Variant) (r : Regs) (inbox : List Input) : State :=
  { params := builtinParams v 0x28, regs := r, ports := Ports.silent, inbox := inbox, ties := 0 }

/-- `Reading` with the given kind, nothing written. -/
def waiting (k : Kind) : Regs := { Regs.reset with st := .reading, kind := k }

/-- `Decoded/RAW 1 0x199 - NONE -` of Q3. -/
def decodedRaw : Regs :=
  { st := .decoded, kind := .raw, v := some true, m := some 0x199, vel := none
    err := some .none, te := none }

/-- `Failed/VEL 0 - - CHECKSUM_FAILED -` of S9. -/
def failedVel : Regs :=
  { st := .failed, kind := .vel, v := some false, m := none, vel := none
    err := some .checksumFailed, te := none }

/-- `Idle/NONE 1 0x199 0x3FC50559 - -` of P1. -/
def usedIdle : Regs :=
  { Regs.reset with v := some true, m := some 0x199, vel := some 0x3FC50559 }

/-- The source's valid packet. -/
def goodPacket : Packet := ⟨0xCC, 0x01, 0x99, 0x01, 0x99⟩

/-- The source's invalid packet. -/
def badPacket : Packet := ⟨0x00, 0x01, 0x02, 0x03, 0x04⟩

/-- The next state's registers and ports, if the outcome is a next state. -/
def after : Result → Option (Regs × Ports)
  | .next t => some (t.regs, t.ports)
  | .fault _ => none
  | .refused _ => none

/-- A bare event of the given kind with the given bytes. -/
def event (kind : BitVec 2) (data : BitVec 40) : Event := ⟨kind, data, 0⟩

/-! ## WellFormed: each check refuses an ill-formed term (R3, R61) -/

theorem test_table_of_one_point_refused : tableWf [⟨409, 0⟩] = false := by decide

theorem test_table_repeated_threshold_refused : tableWf [⟨409, 0⟩, ⟨409, 0⟩] = false := by decide

theorem test_table_falling_threshold_refused :
    tableWf [⟨409, 0⟩, ⟨915, 0⟩, ⟨914, 0⟩] = false := by decide

theorem test_line_of_four_bytes_refused :
    assembleLine (.validate [0xCC, 1, 0x99, 1]) = none := by decide

theorem test_line_byte_too_large_refused :
    assembleLine (.extract [0x100, 0, 0, 0, 0]) = none := by decide

theorem test_line_measurement_too_large_refused : assembleLine (.interp 4096) = none := by decide

/-! ## Decode: words of 95_test_vectors.md 2.1 to 2.5, one per row of the opcode table -/

theorem test_decode_validate :
    decodeCommand 0x01CC01990199 = .instr (.validate ⟨0xCC, 0x01, 0x99, 0x01, 0x99⟩) := by decide

theorem test_decode_extract :
    decodeCommand 0x02840E281234 = .instr (.extract ⟨0x84, 0x0E, 0x28, 0x12, 0x34⟩) := by decide

theorem test_decode_interp : decodeCommand 0x0300000004C2 = .instr (.interp 1218) := by decide

theorem test_decode_probe : decodeCommand 0x040000000000 = .instr .probe := by decide

theorem test_decode_readraw : decodeCommand 0x050000000000 = .instr .readraw := by decide

theorem test_decode_readvel : decodeCommand 0x060000000000 = .instr .readvel := by decide

theorem test_decode_ack : decodeCommand 0x070000000000 = .instr .ack := by decide

theorem test_decode_abort : decodeCommand 0x080000000000 = .instr .abort := by decide

theorem test_decode_rxdone :
    decodeEvent (event 1 0x3A04C20000) = .instr (.rxdone ⟨0x3A, 0x04, 0xC2, 0x00, 0x00⟩) := by
  decide

theorem test_decode_txndone : decodeEvent (event 2 0x3A04C20000) = .instr .txndone := by decide

theorem test_decode_terr (e : TErr) : decodeEvent ⟨3, 0, e⟩ = .instr (.terr e) := rfl

/-- E1 to E4. -/
theorem test_decode_illegal :
    decodeCommand 0x000000000000 = .illegal ∧ decodeCommand 0x090000000000 = .illegal ∧
      decodeCommand 0xFFFFFFFFFFFF = .illegal ∧ decodeCommand 0x0A00000000FF = .illegal := by
  decide

/-- E5 to E11. -/
theorem test_decode_reserved :
    decodeCommand 0x030000001000 = .reserved ∧ decodeCommand 0x038000000000 = .reserved ∧
      decodeCommand 0x040000000001 = .reserved ∧ decodeCommand 0x050000000001 = .reserved ∧
      decodeCommand 0x06CC01990199 = .reserved ∧ decodeCommand 0x078000000000 = .reserved ∧
      decodeCommand 0x080000000100 = .reserved := by
  decide

/-- R61's assembler examples. -/
theorem test_encode_words :
    encode (.validate goodPacket) = .command 0x01CC01990199 ∧
      encode (.interp 1218) = .command 0x0300000004C2 ∧
      encode .readvel = .command 0x060000000000 := by
  decide

theorem test_table_word : decodeTableWord 48 0x070000000000 = some .ack ∧
    decodeTableWord 8 2 = some .txndone := by
  decide

theorem test_read_line :
    readLine "VALIDATE CC 01 99 01 99 ; S1a".toList
      = .line (.validate [0xCC, 0x01, 0x99, 0x01, 0x99]) := by
  decide

theorem test_assemble :
    assemble ["INTERP 0xFFF".toList, "".toList, "@TXNDONE".toList]
      = some [.wire (.command 0x030000000FFF), .wire (.event (event 2 0))] := by
  decide

/-! ## The Codec and the Interpolator -/

/-- K3, K4, K5. -/
theorem test_sum8_wraps :
    validPacket ⟨0, 0, 0, 0, 0⟩ = true ∧ validPacket ⟨0xFF, 0xFF, 0xFF, 0xFF, 0xFF⟩ = false ∧
      validPacket ⟨0x01, 0xFF, 0x00, 0x00, 0x00⟩ = true := by
  decide

/-- K17, K19. -/
theorem test_extract_masks_nibble :
    extractRaw ⟨0x33, 0xF1, 0x99, 0x21, 0x22⟩ = 0x199 ∧
      extractRaw ⟨0xCC, 0x99, 0x01, 0x01, 0x99⟩ = 0x901 := by
  decide

/-- A4, A11, A23, A24. -/
theorem test_interp_narrow :
    interp narrowTable 408 = 0x00000000 ∧ interp narrowTable 1218 = 0x3FC50559 ∧
      interp narrowTable 3685 = 0x40E74AEA ∧ interp narrowTable 3686 = 0x40E75C29 := by
  decide +kernel

/-- B6, B16, B27. -/
theorem test_interp_wide :
    interp wideTable 1202 = 0x3FFFAD76 ∧ interp wideTable 2826 = 0x4101F383 ∧
      interp wideTable 4095 = 0x41700000 := by
  decide +kernel

/-- S7: the intermediate values. -/
theorem test_interp_intermediates :
    fracAt narrowTable 1 1218 = 0x3EFF9408 ∧ dvAt narrowTable 1 = 0x3F70A3D6 ∧
      fmul (fracAt narrowTable 1 1218) (dvAt narrowTable 1) = 0x3EF03E58 := by
  decide +kernel

/-- R32 and R33, the last column, at `k = 1` and `k = 12`. -/
theorem test_rom_entries :
    entryOf (romRead narrowTable 1) = 0x3933F88F5C3 ∧
      entryOf (romRead wideTable 12) = 0xE6641700000 := by
  decide

/-! ## One step -/

/-- P1 line 5: an invalid packet is data. -/
theorem test_validate_step :
    after (step (unit .narrow usedIdle [.wire (.command 0x010001020304)]))
      = some ({ usedIdle with v := some false }, ⟨some .accept, .none⟩) := by
  decide

/-- K10: `EXTRACT` of an invalid packet. -/
theorem test_extract_step :
    after (step (unit .narrow Regs.reset [.wire (.command 0x023B04C20000)]))
      = some ({ Regs.reset with m := some 0x4C2 }, ⟨some .accept, .none⟩) := by
  decide

/-- Section 2.4: `INTERP` does not read `M`. -/
theorem test_interp_step :
    after (step (unit .narrow { Regs.reset with m := some 0x199 }
        [.wire (.command 0x0300000004C2)]))
      = some ({ Regs.reset with m := some 0x199, vel := some 0x3FC50559 },
          ⟨some .accept, .none⟩) := by
  decide +kernel

/-- Q1. -/
theorem test_probe_step :
    after (step (unit .narrow Regs.reset [.wire (.command 0x040000000000)]))
      = some (waiting .probe, ⟨some .accept, .txn0⟩) := by
  decide

/-- Q10: a start command clears the datapath results. -/
theorem test_readraw_step :
    after (step (unit .narrow usedIdle [.wire (.command 0x050000000000)]))
      = some (waiting .raw, ⟨some .accept, .read5⟩) := by
  decide

/-- P3 line 3: a second read before `ACK`. -/
theorem test_readvel_rejected :
    after (step (unit .wide failedVel [.wire (.command 0x060000000000)]))
      = some (failedVel, ⟨some .rejState, .none⟩) := by
  decide

/-- Q3, last line. -/
theorem test_ack_step :
    after (step (unit .narrow decodedRaw [.wire (.command 0x070000000000)]))
      = some (Regs.reset, ⟨some .accept, .none⟩) := by
  decide

/-- Q11. -/
theorem test_abort_step :
    after (step (unit .narrow (waiting .vel) [.wire (.command 0x080000000000)]))
      = some (Regs.reset, ⟨some .accept, .cancel⟩) := by
  decide

/-- Q6. -/
theorem test_rxdone_vel_step :
    after (step (unit .wide (waiting .vel) [.wire (.event (event 1 0x840E281234))]))
      = some ({ st := .decoded, kind := .vel, v := some true, m := some 0xE28
                vel := some 0x415FDEB3, err := some .none, te := none }, Ports.silent) := by
  decide +kernel

/-- Q4: a checksum failure presents no measurement. -/
theorem test_rxdone_failing_step :
    after (step (unit .narrow (waiting .raw) [.wire (.event (event 1 0x3B04C20000))]))
      = some ({ waiting .raw with
                st := .failed, v := some false, err := some .checksumFailed }, Ports.silent) := by
  decide

/-- Q1. -/
theorem test_txndone_step :
    after (step (unit .narrow (waiting .probe) [.wire (.event (event 2 0))]))
      = some ({ waiting .probe with st := .decoded, err := some .none }, Ports.silent) := by
  decide

/-- Q9: an event of the wrong kind is dropped. -/
theorem test_txndone_dropped :
    after (step (unit .narrow (waiting .raw) [.wire (.event (event 2 0))]))
      = some (waiting .raw, Ports.silent) := by
  decide

/-- Q5, for every error value. -/
theorem test_terr_step (e : TErr) :
    after (step (unit .narrow (waiting .raw) [.wire (.event ⟨3, 0, e⟩)]))
      = some ({ waiting .raw with st := .failed, err := some .transport, te := some e },
          Ports.silent) :=
  rfl

/-- E21, E22: reserved before state, illegal before both. -/
theorem test_reject_order :
    after (step (unit .narrow (waiting .raw) [.wire (.command 0x030000001000)]))
        = some (waiting .raw, ⟨some .rejReserved, .none⟩) ∧
      after (step (unit .narrow (waiting .raw) [.wire (.command 0x0900000000FF)]))
        = some (waiting .raw, ⟨some .rejIllegal, .none⟩) := by
  decide

/-- Q13. -/
theorem test_reset_step :
    after (step (unit .narrow decodedRaw [.rst])) = some (Regs.reset, Ports.silent) := by
  decide

/-! ## Witnesses: the hypotheses of each obligation are met -/

theorem witness_EncodeInvertsDecodeOnCommands :
    decodeCommand 0x0300000004C2 = .instr (.interp 1218) := by
  decide

/-- The highest bit of the packet field. -/
theorem witness_EventFieldsAreRead : 39 < 40 ∧ (0xCC01990199 : BitVec 40).getLsbD 39 = true := by
  decide

/-- An accepted and a rejected word. -/
theorem witness_CommandWordGetsItsVerdict :
    (unit .narrow Regs.reset [.wire (.command 0x0300000004C2)]).inbox
        = .wire (.command 0x0300000004C2) :: [] ∧
      verdict 0x0300000004C2 .idle = .accept ∧ verdict 0x030000001000 .reading ≠ .accept := by
  decide

theorem witness_AssemblerReadsWrittenForm : ∀ e, Instr.interp 4095 ≠ .terr e := by
  intro e h
  cases h

theorem witness_idle_and_not_idle :
    (unit .narrow usedIdle []).regs.st = .idle ∧ (unit .narrow decodedRaw []).regs.st ≠ .idle := by
  decide

theorem witness_ValidateWritesOnlyV :
    (unit .narrow usedIdle []).regs.st = .idle ∧ (unit .narrow decodedRaw []).regs.st ≠ .idle :=
  witness_idle_and_not_idle

theorem witness_ExtractWritesOnlyM :
    (unit .narrow usedIdle []).regs.st = .idle ∧ (unit .narrow decodedRaw []).regs.st ≠ .idle :=
  witness_idle_and_not_idle

theorem witness_InterpWritesOnlyVel :
    (unit .narrow usedIdle []).regs.st = .idle ∧ (unit .narrow decodedRaw []).regs.st ≠ .idle :=
  witness_idle_and_not_idle

theorem witness_SingleByteChangeIsCaught :
    validPacket goodPacket = true ∧ (0xCD : Byte) ≠ goodPacket.b0 ∧ (0xCD : Byte) ≠ goodPacket.b1 ∧
      (0xCD : Byte) ≠ goodPacket.b2 ∧ (0xCD : Byte) ≠ goodPacket.b3 ∧
      (0xCD : Byte) ≠ goodPacket.b4 := by
  decide

theorem witness_RomReadReturnsEntry :
    narrowTable.points[0]? = some ⟨409, 0⟩ ∧ narrowTable.points[8]? = some ⟨3686, 0x40E75C29⟩ := by
  decide

theorem witness_RomHoldsNearestOfDecimals :
    (builtinTable .wide).points[12]? = some ⟨3686, 0x41700000⟩ ∧
      (decimalTable .wide)[12]? = some (3686, 1500) := by
  decide

/-- One below the floor threshold, and at the ceiling threshold. -/
theorem witness_InterpClampsAtBothEnds :
    narrowTable.points.head? = some ⟨409, 0⟩ ∧ (408 : Raw).toNat < (409 : Raw).toNat ∧
      narrowTable.points.getLast? = some ⟨3686, 0x40E75C29⟩ ∧
      (3686 : Raw).toNat ≤ (3686 : Raw).toNat := by
  decide

/-- The last measurement of the last segment, and a threshold itself. -/
theorem witness_InterpEvaluatesFormula :
    narrowTable.points[7]? = some ⟨3572, 0x40DFAE14⟩ ∧
      narrowTable.points[7 + 1]? = some ⟨3686, 0x40E75C29⟩ ∧
      (3572 : Raw).toNat ≤ (3685 : Raw).toNat ∧ (3685 : Raw).toNat < (3686 : Raw).toNat ∧
      (3572 : Raw).toNat ≤ (3572 : Raw).toNat := by
  decide

theorem witness_InterpExactAtThresholds :
    ordinaryTable narrowTable ∧ (⟨915, 0x3F88F5C3⟩ : CalPoint) ∈ narrowTable.points := by
  refine ⟨?_, by decide⟩
  unfold ordinaryTable
  decide

theorem witness_InterpMonotoneOnBuiltinTables : (408 : Raw).toNat ≤ (4095 : Raw).toNat := by decide

theorem witness_VelocityStaysInRange :
    (builtinTable .narrow).points.getLast? = some ⟨3686, 0x40E75C29⟩ := by
  decide

theorem witness_SegmentDifferencesAreExact :
    7 + 1 < (builtinTable .narrow).size ∧ 11 + 1 < (builtinTable .wide).size := by
  decide

/-- 1.0 and 1.0: finite, divisor not zero, sum, difference, product and quotient in range. -/
theorem witness_BinaryOperationsRoundCorrectly :
    isFinite 0x3F800000 = true ∧
      |valueOf 0x3F800000 + valueOf 0x3F800000| ≤ maxFinite ∧
      |valueOf 0x3F800000 - valueOf 0x3F800000| ≤ maxFinite ∧
      |valueOf 0x3F800000 * valueOf 0x3F800000| ≤ maxFinite ∧
      valueOf 0x3F800000 ≠ 0 ∧
      |valueOf 0x3F800000 / valueOf 0x3F800000| ≤ maxFinite := by
  have h : valueOf 0x3F800000 = 1 := by decide +kernel
  refine ⟨by decide, ?_⟩
  rw [h]
  norm_num [maxFinite]

theorem witness_BinaryOperationIdentities :
    4095 < 2 ^ 24 ∧ isFinite 0x40E75C29 = true ∧ signOf 0x40E75C29 = false := by
  decide

theorem witness_StartClearsAndRequests :
    (unit .wide usedIdle []).regs.st = .idle ∧ (unit .wide failedVel []).regs.st ≠ .idle ∧
      (Instr.readvel = .readvel ∧ Kind.vel = .vel ∧ TReq.read5 = .read5) := by
  decide

theorem witness_AckReturnsToIdle :
    (unit .narrow decodedRaw []).regs.st = .decoded ∧ (unit .narrow failedVel []).regs.st = .failed ∧
      (unit .narrow usedIdle []).regs.st = .idle ∧
      (unit .narrow (waiting .raw) []).regs.st = .reading := by
  decide

theorem waiting_inv (v : Variant) (k : Kind) (inbox : List Input) (hk : k ≠ .none) :
    (unit v (waiting k) inbox).Inv :=
  ⟨hk, rfl, rfl, rfl, rfl, rfl⟩

theorem witness_AbortLeavesNoPartialState :
    (unit .narrow (waiting .vel) []).regs.st = .reading ∧ (unit .narrow (waiting .vel) []).Inv ∧
      (unit .narrow usedIdle []).regs.st ≠ .reading :=
  ⟨rfl, waiting_inv .narrow .vel [] (by decide), by decide⟩

/-- Each clause: a valid packet for `RAW` and for `VEL`, an invalid one for either, and a drop. -/
theorem witness_RxdoneDeliversOrFails :
    (unit .narrow (waiting .probe) []).regs.kind ≠ .raw ∧
      (unit .narrow (waiting .probe) []).regs.kind ≠ .vel ∧
    (unit .narrow (waiting .raw) []).regs.st = .reading ∧
      (unit .narrow (waiting .raw) []).regs.kind = .raw ∧
      (unit .narrow (waiting .vel) []).regs.st = .reading ∧
      (unit .narrow (waiting .vel) []).regs.kind = .vel ∧
      validPacket goodPacket = true ∧ validPacket badPacket = false := by
  decide

theorem witness_TxndoneEndsProbe :
    (unit .narrow (waiting .probe) []).regs.st = .reading ∧
      (unit .narrow (waiting .probe) []).regs.kind = .probe ∧
      (unit .narrow (waiting .raw) []).regs.kind ≠ .probe := by
  decide

theorem witness_TerrRecordsTransportError :
    (unit .narrow (waiting .probe) []).regs.st = .reading ∧
      (unit .narrow decodedRaw []).regs.st ≠ .reading := by
  decide

theorem witness_UnmatchedEventsAreDropped :
    (unit .narrow usedIdle []).regs.st ≠ .reading ∧
      (unit .narrow (waiting .probe) []).regs.kind = .probe ∧
      (unit .narrow (waiting .raw) []).regs.kind = .raw := by
  decide

/-- Entering `Failed` by a bad packet from a state of R24, and a refused command in `Failed`. -/
theorem witness_FailedEntryIsExact :
    (∃ t, exec (.rxdone badPacket) (unit .narrow (waiting .vel) []) = .next t ∧
        t.regs.st = .failed) ∧
      (unit .narrow (waiting .vel) []).regs.st ≠ .failed ∧
      (unit .narrow (waiting .vel) []).Inv ∧
      (unit .narrow failedVel []).regs.st = .failed ∧ Instr.readvel ≠ .ack :=
  ⟨⟨_, rfl, rfl⟩, by decide, waiting_inv .narrow .vel [] (by decide), rfl, by decide⟩

theorem witness_StateMachineFollowsTable :
    (∃ t, exec .probe (unit .narrow Regs.reset []) = .next t) ∧
      (∀ i, Decoded.illegal ≠ .instr i) ∧
      (∃ t, runDecoded .illegal (unit .narrow Regs.reset []) = .next t) ∧
      (∃ t, takeTurn .rst (unit .narrow decodedRaw []) = .next t) ∧
      (∃ t, takeTurn .nothing (unit .narrow decodedRaw []) = .next t) :=
  ⟨⟨_, rfl⟩, (fun _ h => by cases h), ⟨_, rfl⟩, ⟨_, rfl⟩, ⟨_, rfl⟩⟩

theorem witness_step_answers :
    ∃ t, step (unit .narrow Regs.reset [.wire (.command 0x060000000000)]) = .next t :=
  ⟨_, rfl⟩

theorem witness_OneRequestPerAcceptedStart :
    ∃ t, step (unit .narrow Regs.reset [.wire (.command 0x060000000000)]) = .next t ∧
      t.ports.treq = .read5 :=
  ⟨_, rfl, rfl⟩

theorem witness_DecodedOnlyFromValidPacket :
    ∃ t, exec (.rxdone goodPacket) (unit .narrow (waiting .vel) []) = .next t ∧
      (unit .narrow (waiting .vel) []).regs.st ≠ .decoded ∧ t.regs.st = .decoded ∧
      (unit .narrow (waiting .vel) []).regs.kind ≠ .probe ∧
      (unit .narrow (waiting .vel) []).regs.kind = .vel :=
  ⟨_, rfl, by decide, rfl, by decide, rfl⟩

theorem witness_StepRunsDecodedInstr :
    (unit .narrow Regs.reset [.wire (encode .readvel), .rst]).inbox
        = .wire (encode .readvel) :: [.rst] ∧
      decode (encode .readvel) = .instr .readvel ∧ Instr.readvel.wf = true := by
  decide

theorem witness_ResetRestoresEveryRegister :
    (unit .narrow decodedRaw [.rst]).inbox = .rst :: [] := by
  decide

/-- A state of R24 and a step from it. -/
theorem witness_StepKeepsInvariant :
    (unit .narrow (waiting .vel) [.wire (.event (event 1 0xCC01990199))]).Inv ∧
      ∃ t, step (unit .narrow (waiting .vel) [.wire (.event (event 1 0xCC01990199))]) = .next t :=
  ⟨waiting_inv .narrow .vel _ (by decide), ⟨_, rfl⟩⟩

theorem witness_ParametersNeverChange :
    ∃ t, step (unit .narrow Regs.reset [.wire (.command 0x060000000000)]) = .next t :=
  witness_step_answers

theorem witness_WaitsWithoutLimit : (unit .narrow (waiting .vel) []).inbox = [] := by decide

theorem witness_SimultaneousInputsAreSerialized :
    (unit .narrow (waiting .vel) [.together 0x080000000000 (event 1 0xCC01990199)]).inbox
      = .together 0x080000000000 (event 1 0xCC01990199) :: [] := by
  decide

/-- The three pairings of R126 item 3 (the first is Q12), and one in which the order does not show. -/
theorem witness_OrderVisibleExactlyInThreePairings :
    isCommand .abort = true ∧ isCommand .ack = true ∧ isCommand .readvel = true ∧
      isCommand (.rxdone goodPacket) = false ∧
      orderVisible (waiting .vel) .abort (.rxdone goodPacket) ∧
      orderVisible (waiting .vel) .ack (.rxdone goodPacket) ∧
      orderVisible Regs.reset .readvel (.rxdone goodPacket) ∧
      ¬ orderVisible (waiting .vel) .probe (.rxdone goodPacket) := by
  refine ⟨rfl, rfl, rfl, rfl, .inl ⟨rfl, .inl rfl, rfl⟩, .inl ⟨rfl, .inr rfl, rfl⟩,
    .inr ⟨rfl, .vel, rfl, rfl⟩, ?_⟩
  rintro (⟨_, h | h, _⟩ | ⟨h, _⟩) <;> cases h

theorem witness_ReadOperationsReturnSourceResults :
    (unit .narrow usedIdle []).regs.st = .idle ∧ validPacket goodPacket = true ∧
      validPacket badPacket = false := by
  decide

theorem witness_ProbeAndTransportErrorsReturnSourceResults :
    (unit .narrow usedIdle []).regs.st = .idle ∧ (startKind .probe).isSome = true := by
  decide

/-- Two idle units that differ in what their registers hold. -/
theorem witness_NothingSurvivesAStartCommand :
    (unit .narrow usedIdle [.wire (encode .readraw)]).regs.st = .idle ∧
      (unit .narrow Regs.reset [.wire (encode .readraw)]).regs.st = .idle ∧
      (startKind .readraw).isSome = true ∧ usedIdle ≠ Regs.reset ∧
      (unit .narrow usedIdle [.wire (encode .readraw)]).params
        = (unit .narrow Regs.reset [.wire (encode .readraw)]).params ∧
      (unit .narrow usedIdle [.wire (encode .readraw)]).ties
        = (unit .narrow Regs.reset [.wire (encode .readraw)]).ties ∧
      (unit .narrow usedIdle [.wire (encode .readraw)]).inbox = .wire (encode .readraw) :: [] ∧
      (unit .narrow Regs.reset [.wire (encode .readraw)]).inbox
        = .wire (encode .readraw) :: [] := by
  decide

theorem witness_HonestEventEndsOperation :
    decodeEvent (event 1 0xCC01990199) = .instr (.rxdone goodPacket) ∧
      transportHonest (unit .narrow (waiting .vel) [.wire (.event (event 1 0xCC01990199))]) := by
  refine ⟨by decide, ?_⟩
  intro e rest i hi hd
  obtain rfl : event 1 0xCC01990199 = e := by
    injection hi with h _
    injection h with h
    injection h
  have hd' : decodeEvent (event 1 0xCC01990199) = .instr (.rxdone goodPacket) := by decide
  obtain rfl : Instr.rxdone goodPacket = i := by
    rw [hd'] at hd
    injection hd
  exact ⟨rfl, rfl⟩

/-- Each written register, and a step that answered. -/
theorem witness_OutputsShowRegisters (e : TErr) :
    (unit .narrow usedIdle []).regs.v = some true ∧
      (unit .narrow usedIdle []).regs.m = some 0x199 ∧
      (unit .narrow usedIdle []).regs.vel = some 0x3FC50559 ∧
      (unit .narrow failedVel []).regs.err = some .checksumFailed ∧
      ((unit .narrow usedIdle []).setTe e).regs.te = some e ∧
      ((unit .narrow usedIdle []).respond .rejState).ports.resp = some .rejState :=
  ⟨rfl, rfl, rfl, rfl, rfl, rfl⟩

/-- Two states with every result register unwritten and no response. -/
theorem witness_UnwrittenPinsDependOnLookAlone :
    (unit .narrow Regs.reset []).regs.unwritten ∧ (unit .wide (waiting .vel) []).regs.unwritten ∧
      (unit .narrow Regs.reset []).ports.resp = none ∧
      (unit .wide (waiting .vel) []).ports.resp = none :=
  ⟨⟨rfl, rfl, rfl, rfl, rfl⟩, ⟨rfl, rfl, rfl, rfl, rfl⟩, rfl, rfl⟩

/-- A finite pair whose sum is infinite, zeros and a one, a NaN, and infinities of both signs. -/
theorem witness_OverflowAndSpecialOperands :
    isFinite 0x7F7FFFFF = true ∧ overflowFrom ≤ |valueOf 0x7F7FFFFF + valueOf 0x7F7FFFFF| ∧
      isFinite 0x00000000 = true ∧ valueOf 0x00000000 = 0 ∧
      isFinite 0x3F800000 = true ∧ valueOf 0x3F800000 ≠ 0 ∧
      isNaN 0x7FC00000 = true ∧ isInf 0x7F800000 = true ∧ isInf 0xFF800000 = true ∧
      signOf 0x7F800000 ≠ signOf 0xFF800000 := by
  have hmax : valueOf 0x7F7FFFFF = 2 ^ 128 - 2 ^ 104 := by decide +kernel
  have hone : valueOf 0x3F800000 = 1 := by decide +kernel
  refine ⟨by decide, ?_, by decide, by decide +kernel, by decide, ?_, by decide, by decide,
    by decide, by decide⟩
  · rw [hmax]
    norm_num [overflowFrom]
  · rw [hone]
    norm_num

/-- An exact result between the largest finite magnitude and `overflowFrom`: the largest plus 2^102. -/
theorem witness_OverflowAndSpecialOperands_below_infinity :
    isFinite 0x72800000 = true ∧ maxFinite < |valueOf 0x7F7FFFFF + valueOf 0x72800000| ∧
      |valueOf 0x7F7FFFFF + valueOf 0x72800000| < overflowFrom := by
  have hmax : valueOf 0x7F7FFFFF = 2 ^ 128 - 2 ^ 104 := by decide +kernel
  have hsmall : valueOf 0x72800000 = 2 ^ 102 := by decide +kernel
  refine ⟨by decide, ?_, ?_⟩ <;> rw [hmax, hsmall] <;> norm_num [maxFinite, overflowFrom]

end Sys2Proof.Tests
end

section
/-! PROOFS. The scope of the unit (spec/00_scope.md): a step runs the instruction presented, the
parameters never change, and a start command leaves nothing of the registers before it. -/

namespace Sys2Proof.Machine

/-! ## A step that takes a port value -/

theorem nextTurn_of_wire {s : State} {w : Wire} {rest : List Input}
    (h : s.inbox = .wire w :: rest) : s.nextTurn = (.wire w, { s with inbox := rest }) := by
  unfold State.nextTurn
  rw [h]

/-- A step that takes a port value does what the decoder makes of it. -/
theorem step_of_wire {s : State} {w : Wire} {rest : List Input} (h : s.inbox = .wire w :: rest) :
    step s = runDecoded (decode w) { s with inbox := rest } := by
  unfold step
  rw [nextTurn_of_wire h]
  rfl

theorem step_of_wire_instr {s : State} {w : Wire} {i : Instr} {rest : List Input}
    (h : s.inbox = .wire w :: rest) (hd : decode w = .instr i) :
    step s = exec i { s with inbox := rest } := by
  rw [step_of_wire h, hd]
  rfl

/-- Settles O37. That the instruction is well formed is not needed: every one is. -/
theorem stepRunsDecodedInstr : Obligations.StepRunsDecodedInstr :=
  fun _ _ _ _ h hd _ => step_of_wire_instr h hd

/-! ## The parameters -/

/-- A command keeps the parameters if the state it leaves when accepted does. -/
theorem whenAccepted_params {accepts : St → Bool} {s t u : State}
    (h : whenAccepted accepts s (.next u) = .next t) (hu : u.params = s.params) :
    t.params = s.params := by
  rcases whenAccepted_cases h with ⟨_, hb⟩ | ⟨_, rfl⟩
  · cases hb
    exact hu
  · exact State.respond_params .rejState s

theorem start_params {k : Kind} {q : TReq} {s t : State} (h : start k q s = .next t) :
    t.params = s.params := by
  rcases start_cases h with ⟨_, rfl⟩ | ⟨_, rfl⟩ <;> simp

theorem fail_params {f : Failure} {s t : State} (h : fail f s = .next t) : t.params = s.params :=
  (fail_frame h).1

theorem succeed_params {s t : State} (h : succeed s = .next t) : t.params = s.params := by
  obtain ⟨_, _, hparams, _, _⟩ := succeed_cases h
  exact hparams

theorem dropEvent_params {s t : State} (h : dropEvent s = .next t) : t.params = s.params := by
  cases h
  exact State.quiet_params s

/-- A packet is delivered, found invalid, or dropped. -/
theorem execRxdone_params {p : Packet} {s t : State} (h : execRxdone p s = .next t) :
    t.params = s.params := by
  unfold execRxdone at h
  split at h
  · split at h
    · exact (succeed_params h).trans (deliver_frame p s).1
    · exact fail_params h
  · exact dropEvent_params h

theorem execTxndone_params {s t : State} (h : execTxndone s = .next t) : t.params = s.params := by
  unfold execTxndone at h
  split at h
  · exact succeed_params h
  · exact dropEvent_params h

theorem execTerr_params {e : TErr} {s t : State} (h : execTerr e s = .next t) :
    t.params = s.params := by
  unfold execTerr at h
  split at h
  · exact fail_params h
  · exact dropEvent_params h

/-- No instruction changes the parameters. -/
theorem exec_params {i : Instr} {s t : State} (h : exec i s = .next t) : t.params = s.params := by
  cases i with
  | validate p => exact whenAccepted_params h (by simp)
  | extract p => exact whenAccepted_params h (by simp)
  | interp m => exact whenAccepted_params h (by simp)
  | probe => exact start_params h
  | readraw => exact start_params h
  | readvel => exact start_params h
  | ack => exact whenAccepted_params h (by simp)
  | abort => exact whenAccepted_params h (by simp)
  | rxdone p => exact execRxdone_params h
  | txndone => exact execTxndone_params h
  | terr e => exact execTerr_params h

/-- No step changes the parameters: taking the input does not, and neither does what is done with it. -/
theorem step_params {s t : State} (h : step s = .next t) : t.params = s.params := by
  have hturn : s.nextTurn.2.params = s.params := (nextTurn_frame s).1
  rw [← hturn]
  rcases step_cases h with ⟨_, rfl⟩ | ⟨_, _, _, _, hexec⟩ | ⟨_, _, _, rfl⟩ | ⟨_, _, _, rfl⟩ |
    ⟨_, _, _, rfl⟩ | ⟨_, rfl⟩
  · exact State.quiet_params _
  · exact exec_params hexec
  · exact State.respond_params _ _
  · exact State.respond_params _ _
  · exact State.quiet_params _
  · exact State.resetUnit_params _

/-- Settles O41: `variant` and `taddr` show the parameters, which no step changes. -/
theorem parametersNeverChange : Obligations.ParametersNeverChange := by
  intro s t h
  have hparams := step_params h
  refine ⟨hparams, fun look look' => ?_⟩
  simp [State.pins, hparams]

/-! ## A start command in `Idle` -/

/-- The state a start command leaves in `Idle`, written out: no register of it is taken from `s`. -/
theorem start_of_idle {k : Kind} {q : TReq} {s : State} (h : s.regs.st = .idle) :
    start k q s = .next
      { params := s.params
        regs :=
          { st := .reading, kind := k, v := none, m := none, vel := none, err := none, te := none }
        ports := { resp := some .accept, treq := q }
        inbox := s.inbox
        ties := s.ties } :=
  whenAccepted_of_true (acceptsStart_iff.2 h)

/-- Each start command is `start` with its own kind and a fixed request (R102 to R104). -/
theorem exec_eq_start {i : Instr} {k : Kind} (h : startKind i = some k) :
    ∃ q, ∀ s, exec i s = start k q s := by
  cases i with
  | probe =>
    cases h
    exact ⟨.txn0, fun _ => rfl⟩
  | readraw =>
    cases h
    exact ⟨.read5, fun _ => rfl⟩
  | readvel =>
    cases h
    exact ⟨.read5, fun _ => rfl⟩
  | validate p | extract p | interp m | ack | abort | rxdone p | txndone | terr e => cases h

theorem decode_encode_of_startKind {i : Instr} {k : Kind} (h : startKind i = some k) :
    decode (encode i) = .instr i := by
  cases i with
  | probe | readraw | readvel => decide
  | validate p | extract p | interp m | ack | abort | rxdone p | txndone | terr e => cases h

/-- A start command forgets the registers of an idle unit. -/
theorem exec_start_forgets_regs {i : Instr} {k : Kind} {s s' : State} (hi : startKind i = some k)
    (hs : s.regs.st = .idle) (hs' : s'.regs.st = .idle) (hparams : s.params = s'.params)
    (hinbox : s.inbox = s'.inbox) (hties : s.ties = s'.ties) : exec i s = exec i s' := by
  obtain ⟨q, hq⟩ := exec_eq_start hi
  rw [hq, hq, start_of_idle hs, start_of_idle hs', hparams, hinbox, hties]

/-- Two states with the same next step run alike from it on. -/
theorem run_succ_congr {M : Host.Core} {s s' : M.State} (h : M.step s = M.step s') (n : Nat) :
    M.run (n + 1) s = M.run (n + 1) s' := by
  simp only [Host.Core.run, h]

/-- Settles O48: the start command's own step already gives both units one and the same state. -/
theorem nothingSurvivesAStartCommand : Obligations.NothingSurvivesAStartCommand := by
  intro s s' i rest n hs hs' hstart hparams hties hinbox hinbox'
  obtain ⟨k, hk⟩ := Option.isSome_iff_exists.1 hstart
  have hd := decode_encode_of_startKind hk
  have hstep : step s = step s' := by
    rw [step_of_wire_instr hinbox hd, step_of_wire_instr hinbox' hd]
    exact exec_start_forgets_regs hk hs hs' hparams rfl hties
  exact run_succ_congr (M := core) hstep n

end Sys2Proof.Machine
end

section
/-! PROOFS. The state of the unit (spec/10_state.md): every step keeps the invariant of R24, the reset
state has it, and the outputs show the registers. -/

namespace Sys2Proof.Machine

/-! ## The rows of R24 -/

/-- The `Idle` row. -/
theorem inv_iff_of_idle {s : State} (h : s.regs.st = .idle) :
    s.Inv ↔ s.regs.kind = .none ∧ velFromTable s ∧ s.regs.err = none ∧ s.regs.te = none := by
  rw [State.Inv, h]

/-- The `Reading` row. -/
theorem inv_iff_of_reading {s : State} (h : s.regs.st = .reading) :
    s.Inv ↔ s.regs.kind ≠ .none ∧ s.regs.unwritten := by
  rw [State.Inv, h]

/-- The invariant speaks of the registers and the parameters only. -/
theorem State.Inv.of_frame {s t : State} (hs : s.Inv) (hregs : t.regs = s.regs)
    (hparams : t.params = s.params) : t.Inv := by
  simpa [State.Inv, velFromTable, hregs, hparams] using hs

/-- The registers of reset meet the `Idle` row, whatever the table. -/
theorem inv_of_reset_regs {s : State} (h : s.regs = Regs.reset) : s.Inv :=
  (inv_iff_of_idle (by rw [h]; rfl)).2
    ⟨by rw [h]; rfl, .inl (by rw [h]; rfl), by rw [h]; rfl, by rw [h]; rfl⟩

/-! ## Commands keep the invariant -/

/-- A refused command changes no register, so only the state left on acceptance matters. -/
theorem whenAccepted_inv {accepts : St → Bool} {s t u : State}
    (h : whenAccepted accepts s (.next u) = .next t) (hs : s.Inv)
    (hu : accepts s.regs.st = true → u.Inv) : t.Inv := by
  rcases whenAccepted_cases h with ⟨ha, hb⟩ | ⟨_, rfl⟩
  · cases hb
    exact hu ha
  · exact hs.of_frame rfl rfl

/-- A datapath command may write `V`, `M` and, from the table, `VEL`; the `Idle` row leaves the first
two free. -/
theorem datapath_inv {s t u : State} (h : whenAccepted acceptsStart s (.next u) = .next t)
    (hs : s.Inv) (hst : u.regs.st = s.regs.st) (hkind : u.regs.kind = s.regs.kind)
    (hvel : velFromTable s → velFromTable u) (herr : u.regs.err = s.regs.err)
    (hte : u.regs.te = s.regs.te) : t.Inv := by
  refine whenAccepted_inv h hs fun ha => ?_
  have hidle := acceptsStart_iff.1 ha
  obtain ⟨hkind', hvel', herr', hte'⟩ := (inv_iff_of_idle hidle).1 hs
  exact (inv_iff_of_idle (hst.trans hidle)).2
    ⟨hkind.trans hkind', hvel hvel', herr.trans herr', hte.trans hte'⟩

theorem execValidate_inv {p : Packet} {s t : State} (h : execValidate p s = .next t) (hs : s.Inv) :
    t.Inv :=
  datapath_inv h hs rfl rfl id rfl rfl

theorem execExtract_inv {p : Packet} {s t : State} (h : execExtract p s = .next t) (hs : s.Inv) :
    t.Inv :=
  datapath_inv h hs rfl rfl id rfl rfl

theorem execInterp_inv {m : Raw} {s t : State} (h : execInterp m s = .next t) (hs : s.Inv) : t.Inv :=
  datapath_inv h hs rfl rfl (fun _ => .inr ⟨m, rfl⟩) rfl rfl

/-- A start command leaves every result unwritten, as the `Reading` row asks. -/
theorem start_inv {k : Kind} {q : TReq} {s t : State} (hk : k ≠ .none) (h : start k q s = .next t)
    (hs : s.Inv) : t.Inv := by
  rcases start_cases h with ⟨_, rfl⟩ | ⟨_, rfl⟩
  · exact (inv_iff_of_reading rfl).2 ⟨hk, rfl, rfl, rfl, rfl, rfl⟩
  · exact hs.of_frame rfl rfl

/-- `ACK` leaves the registers of reset. -/
theorem execAck_inv {s t : State} (h : execAck s = .next t) (hs : s.Inv) : t.Inv :=
  whenAccepted_inv h hs fun _ => inv_of_reset_regs rfl

/-- `ABORT` finds every result unwritten, and leaves it so. -/
theorem execAbort_inv {s t : State} (h : execAbort s = .next t) (hs : s.Inv) : t.Inv := by
  refine whenAccepted_inv h hs fun ha => ?_
  obtain ⟨_, _, _, hvel, herr, hte⟩ := (inv_iff_of_reading (acceptsAbort_iff.1 ha)).1 hs
  exact (inv_iff_of_idle rfl).2 ⟨rfl, .inl hvel, herr, hte⟩

/-! ## Events keep the invariant -/

theorem takesRxdone_iff {r : Regs} :
    takesRxdone r = true ↔ r.st = .reading ∧ (r.kind = .raw ∨ r.kind = .vel) := by
  simp [takesRxdone]

theorem takesTxndone_iff {r : Regs} :
    takesTxndone r = true ↔ r.st = .reading ∧ r.kind = .probe := by
  simp [takesTxndone]

theorem takesTerr_iff {r : Regs} : takesTerr r = true ↔ r.st = .reading := by
  simp [takesTerr]

theorem dropEvent_inv {s t : State} (h : dropEvent s = .next t) (hs : s.Inv) : t.Inv := by
  cases h
  exact hs.of_frame rfl rfl

/-- A valid packet in `Reading`: the `Decoded` row of `RAW` or of `VEL`. -/
theorem succeed_deliver_inv {p : Packet} {s t : State} (h : succeed (deliver p s) = .next t)
    (hs : s.Inv) (hst : s.regs.st = .reading) (hkind : s.regs.kind = .raw ∨ s.regs.kind = .vel) :
    t.Inv := by
  obtain ⟨_, _, _, hvel, _, hte⟩ := (inv_iff_of_reading hst).1 hs
  obtain ⟨hregs, _, hparams, _, _⟩ := succeed_cases h
  have htable : t.params = s.params := hparams.trans (deliver_frame p s).1
  rcases hkind with hkind | hkind
  · simp [State.Inv, hregs, deliver_regs, hkind, hvel, hte]
  · simp [State.Inv, hregs, deliver_regs, hkind, htable, hte]

/-- The answer to a `PROBE`: the `Decoded` row of `PROBE`. -/
theorem succeed_probe_inv {s t : State} (h : succeed s = .next t) (hs : s.Inv)
    (hst : s.regs.st = .reading) (hkind : s.regs.kind = .probe) : t.Inv := by
  obtain ⟨_, hv, hm, hvel, _, hte⟩ := (inv_iff_of_reading hst).1 hs
  obtain ⟨hregs, _⟩ := succeed_cases h
  simp [State.Inv, hregs, hkind, hv, hm, hvel, hte]

/-- An invalid packet in `Reading`: the `Failed` row of `CHECKSUM_FAILED`. -/
theorem fail_checksum_inv {s t : State} (h : fail .checksum s = .next t) (hs : s.Inv)
    (hst : s.regs.st = .reading) (hkind : s.regs.kind = .raw ∨ s.regs.kind = .vel) : t.Inv := by
  obtain ⟨_, _, hm, hvel, _, hte⟩ := (inv_iff_of_reading hst).1 hs
  simp [State.Inv, fail_regs h, hkind, hm, hvel, hte]

/-- A transport error in `Reading`: the `Failed` row of `TRANSPORT`. -/
theorem fail_transport_inv {e : TErr} {s t : State} (h : fail (.transport e) s = .next t)
    (hs : s.Inv) (hst : s.regs.st = .reading) : t.Inv := by
  obtain ⟨hkind, hv, hm, hvel, _, _⟩ := (inv_iff_of_reading hst).1 hs
  simp [State.Inv, fail_regs h, hkind, hv, hm, hvel]

theorem execRxdone_inv {p : Packet} {s t : State} (h : execRxdone p s = .next t) (hs : s.Inv) :
    t.Inv := by
  unfold execRxdone at h
  split at h
  next htaken =>
    obtain ⟨hst, hkind⟩ := takesRxdone_iff.1 htaken
    split at h
    · exact succeed_deliver_inv h hs hst hkind
    · exact fail_checksum_inv h hs hst hkind
  next => exact dropEvent_inv h hs

theorem execTxndone_inv {s t : State} (h : execTxndone s = .next t) (hs : s.Inv) : t.Inv := by
  unfold execTxndone at h
  split at h
  next htaken =>
    obtain ⟨hst, hkind⟩ := takesTxndone_iff.1 htaken
    exact succeed_probe_inv h hs hst hkind
  next => exact dropEvent_inv h hs

theorem execTerr_inv {e : TErr} {s t : State} (h : execTerr e s = .next t) (hs : s.Inv) : t.Inv := by
  unfold execTerr at h
  split at h
  next htaken => exact fail_transport_inv h hs (takesTerr_iff.1 htaken)
  next => exact dropEvent_inv h hs

/-! ## A step keeps the invariant -/

theorem exec_inv {i : Instr} {s t : State} (h : exec i s = .next t) (hs : s.Inv) : t.Inv := by
  cases i with
  | validate p => exact execValidate_inv h hs
  | extract p => exact execExtract_inv h hs
  | interp m => exact execInterp_inv h hs
  | probe => exact start_inv (by decide) h hs
  | readraw => exact start_inv (by decide) h hs
  | readvel => exact start_inv (by decide) h hs
  | ack => exact execAck_inv h hs
  | abort => exact execAbort_inv h hs
  | rxdone p => exact execRxdone_inv h hs
  | txndone => exact execTxndone_inv h hs
  | terr e => exact execTerr_inv h hs

/-- Settles O40: taking the input changes no register, and each thing a step can do with it leads to a
row of R24. -/
theorem stepKeepsInvariant : Obligations.StepKeepsInvariant := by
  intro s t hs h
  obtain ⟨hparams, hregs, _⟩ := nextTurn_frame s
  have hturn : s.nextTurn.2.Inv := hs.of_frame hregs hparams
  rcases step_cases h with ⟨_, rfl⟩ | ⟨_, _, _, _, hexec⟩ | ⟨_, _, _, rfl⟩ | ⟨_, _, _, rfl⟩ |
    ⟨_, _, _, rfl⟩ | ⟨_, rfl⟩
  · exact hturn.of_frame rfl rfl
  · exact exec_inv hexec hturn
  · exact hturn.of_frame rfl rfl
  · exact hturn.of_frame rfl rfl
  · exact hturn.of_frame rfl rfl
  · exact inv_of_reset_regs rfl

/-- Settles O39: reset writes the registers of the `Idle` row; the parameters play no part in it. -/
theorem resetStateHasInvariant : Obligations.ResetStateHasInvariant :=
  ⟨fun _ => ⟨inv_of_reset_regs rfl, rfl⟩, inv_of_reset_regs rfl, rfl, rfl⟩

/-! ## The outputs -/

@[simp] theorem shown_some {α : Type} (unwritten : Nat → α) (look : Nat) (x : α) :
    shown unwritten look (some x) = x := rfl

theorem bit_eq_one_iff {b : Bool} : bit b = 1 ↔ b = true := by
  cases b <;> decide

theorem doneFlag_iff {st : St} : doneFlag st = true ↔ st = .decoded ∨ st = .failed := by
  cases st <;> decide

theorem variantCode_eq_one_iff {v : Variant} : variantCode v = 1 ↔ v = .wide := by
  cases v <;> decide

/-- Settles O50: each output in turn, a coded one value by value. -/
theorem outputsShowRegisters : Obligations.OutputsShowRegisters := by
  intro s look
  unfold State.pins
  refine ⟨?st, ?kind, bit_eq_one_iff.trans doneFlag_iff, ?v, ?m, ?vel, ?err, ?te, ?resp, ?treq, rfl,
    variantCode_eq_one_iff⟩
  case st => cases s.regs.st <;> rfl
  case kind => cases s.regs.kind <;> rfl
  case v =>
    intro b hb
    simp only [hb, Option.map_some, shown_some, bit_eq_one_iff]
  case m =>
    intro m hm
    simp only [hm, shown_some]
  case vel =>
    intro x hx
    simp only [hx, shown_some]
  case err =>
    intro e he
    simp only [he, Option.map_some, shown_some]
    cases e <;> rfl
  case te =>
    intro e he
    simp only [he, shown_some]
  case resp =>
    intro c hc
    simp only [hc, Option.map_some, shown_some]
    cases c <;> rfl
  case treq => cases s.ports.treq <;> rfl

end Sys2Proof.Machine
end

section
/-! PROOFS. The memory of the unit (spec/20_memory.md): what a read of the calibration ROM returns, that
the built-in ROMs hold the binary32 values nearest to the source's decimals, and that two inputs of one
moment are taken one after the other. -/

namespace Sys2Proof.Machine

/-! ## Reading the ROM -/

theorem romRead_of_getElem? {t : CalTable} {k : Nat} {p : CalPoint} (h : t.points[k]? = some p) :
    romRead t k = p := by
  rw [romRead, h]

/-- The upper 12 bits of an entry (R31). -/
theorem raw_of_entryOf (p : CalPoint) : (entryOf p).extractLsb' 32 12 = p.raw :=
  BitVec.extractLsb'_append_eq_left

/-- The lower 32 bits of an entry (R31). -/
theorem vel_of_entryOf (p : CalPoint) : (entryOf p).extractLsb' 0 32 = p.vel :=
  BitVec.extractLsb'_append_eq_right

@[simp] theorem pointOfEntry_entryOf (p : CalPoint) : pointOfEntry (entryOf p) = p := by
  rw [pointOfEntry, raw_of_entryOf, vel_of_entryOf]

/-- Settles O14: an index with an entry reads that entry, and the halves of an entry are its point. -/
theorem romReadReturnsEntry : Obligations.RomReadReturnsEntry := by
  refine ⟨fun t k p h => ?_, fun p => ⟨raw_of_entryOf p, vel_of_entryOf p, pointOfEntry_entryOf p⟩⟩
  have hread := romRead_of_getElem? h
  exact ⟨hread, congrArg CalPoint.raw hread, congrArg CalPoint.vel hread⟩

/-! ## The spacing of the binary32 values -/

theorem fracOf_lt (x : F32) : fracOf x < 2 ^ 23 := (x.extractLsb' 0 23).isLt

theorem unitsOf_of_subnormal {x : F32} (h : expOf x = 0) : unitsOf x = fracOf x := if_pos h

theorem unitsOf_of_normal {x : F32} (h : expOf x ≠ 0) :
    unitsOf x = (2 ^ 23 + fracOf x) * 2 ^ (expOf x - 1) := if_neg h

theorem abs_signedUnits (x : F32) : |signedUnits x| = (unitsOf x : Int) := by
  unfold signedUnits
  split
  · rw [abs_neg, Nat.abs_cast]
  · exact Nat.abs_cast _

/-- The distance between neighbouring values of exponent field `e`, in units of `2^-149`. -/
def spacingUnits (e : Nat) : Nat := 2 ^ (e - 1)

/-- With an exponent field of at least `e`, a value is a whole number of the spacings of `e`. -/
theorem spacingUnits_dvd_signedUnits {x : F32} {e : Nat} (h : e ≤ expOf x) :
    (spacingUnits e : Int) ∣ signedUnits x := by
  rw [← dvd_abs, abs_signedUnits, Int.natCast_dvd_natCast, spacingUnits]
  by_cases hx : expOf x = 0
  · obtain rfl : e = 0 := by omega
    exact one_dvd _
  · rw [unitsOf_of_normal hx]
    exact Dvd.dvd.mul_left (pow_dvd_pow 2 (by omega)) _

/-- With an exponent field below `e`, a value is no larger than the smallest one of `e`. -/
theorem unitsOf_le_of_expOf_lt {x : F32} {e : Nat} (h : expOf x < e) :
    unitsOf x ≤ 2 ^ 23 * spacingUnits e := by
  have hfrac := fracOf_lt x
  by_cases hx : expOf x = 0
  · rw [unitsOf_of_subnormal hx]
    exact hfrac.le.trans (Nat.le_mul_of_pos_right _ (Nat.two_pow_pos _))
  · calc unitsOf x = (2 ^ 23 + fracOf x) * 2 ^ (expOf x - 1) := unitsOf_of_normal hx
      _ ≤ (2 ^ 23 * 2) * 2 ^ (expOf x - 1) := Nat.mul_le_mul_right _ (by omega)
      _ = 2 ^ 23 * 2 ^ (expOf x - 1 + 1) := by rw [Nat.mul_assoc, ← Nat.pow_succ']
      _ ≤ 2 ^ 23 * spacingUnits e :=
        Nat.mul_le_mul_left _ (Nat.pow_le_pow_right (by decide) (by omega))

/-- A normal value that is no power of two is at least one spacing above the smallest of its exponent. -/
theorem spacingUnits_above_le_unitsOf {x : F32} (he : expOf x ≠ 0) (hf : fracOf x ≠ 0) :
    2 ^ 23 * spacingUnits (expOf x) + spacingUnits (expOf x) ≤ unitsOf x := by
  rw [unitsOf_of_normal he, ← Nat.succ_mul]
  exact Nat.mul_le_mul_right _ (by omega)

/-- No other value is nearer to `x` than one spacing. Below a power of two, whose fraction is 0, the
next value is only half a spacing away. -/
theorem spacingUnits_le_distance {x y : F32} (hf : fracOf x ≠ 0)
    (hne : signedUnits y ≠ signedUnits x) :
    (spacingUnits (expOf x) : Int) ≤ |signedUnits y - signedUnits x| := by
  rcases Nat.lt_or_ge (expOf y) (expOf x) with hlt | hge
  · have hy := unitsOf_le_of_expOf_lt hlt
    have hx := spacingUnits_above_le_unitsOf (by omega) hf
    have habs := abs_sub_abs_le_abs_sub (signedUnits x) (signedUnits y)
    rw [abs_signedUnits, abs_signedUnits, abs_sub_comm] at habs
    omega
  · have hdvd := dvd_sub (spacingUnits_dvd_signedUnits hge)
      (spacingUnits_dvd_signedUnits (le_refl (expOf x)))
    exact Int.le_of_dvd (abs_pos.2 (sub_ne_zero.2 hne)) ((dvd_abs _ _).2 hdvd)

/-- The distance between neighbouring values of the exponent of `x`. -/
def spacing (x : F32) : Rat := (spacingUnits (expOf x) : Rat) / (one : Rat)

theorem valueOf_sub (x y : F32) :
    valueOf y - valueOf x = ((signedUnits y - signedUnits x : Int) : Rat) / (one : Rat) := by
  rw [valueOf, valueOf, ← sub_div, Int.cast_sub]

theorem cast_one_units_pos : (0 : Rat) < (one : Rat) := by
  norm_num [one]

theorem spacing_le_distance {x y : F32} (hf : fracOf x ≠ 0) (hne : valueOf y ≠ valueOf x) :
    spacing x ≤ |valueOf y - valueOf x| := by
  have hunits : signedUnits y ≠ signedUnits x := fun h => hne (by rw [valueOf, valueOf, h])
  rw [spacing, valueOf_sub, abs_div, abs_of_pos cast_one_units_pos, ← Int.cast_abs]
  gcongr
  exact_mod_cast spacingUnits_le_distance hf hunits

/-! ## The nearest binary32 value -/

theorem nearestEven_of_exact {q : Rat} {x : F32} (hx : isFinite x = true) (h : valueOf x = q) :
    nearestEven q x := by
  subst h
  refine ⟨hx, fun y _ => ⟨by simp, fun heq hne => ?_⟩⟩
  rw [sub_self, abs_zero, eq_comm, abs_eq_zero, sub_eq_zero] at heq
  exact absurd heq.symm hne

/-- `q` lies within half a spacing of `x`, which is no power of two. -/
def withinHalfSpacing (q : Rat) (x : F32) : Prop :=
  fracOf x ≠ 0 ∧ 2 * |valueOf x - q| < spacing x

/-- Within half a spacing of `q` there is one value only, so no tie arises. -/
theorem nearestEven_of_withinHalfSpacing {q : Rat} {x : F32} (hx : isFinite x = true)
    (h : withinHalfSpacing q x) : nearestEven q x := by
  obtain ⟨hf, hnear⟩ := h
  have hcloser {y : F32} (hne : valueOf y ≠ valueOf x) : |valueOf x - q| < |valueOf y - q| := by
    have hspacing := spacing_le_distance hf hne
    have htriangle := abs_sub_le (valueOf y) q (valueOf x)
    rw [abs_sub_comm q] at htriangle
    linarith
  refine ⟨hx, fun y _ => ⟨?_, fun heq hne => absurd heq (hcloser hne.symm).ne⟩⟩
  by_cases hne : valueOf y = valueOf x
  · rw [hne]
  · exact (hcloser hne).le

/-! ## The built-in tables -/

/-- A stored velocity stands for so many hundredths: exactly, or as the one value within half a spacing;
and 0.0 is stored as +0. -/
def storesHundredths (vel : F32) (hundredths : Nat) : Prop :=
  isFinite vel = true ∧
    (valueOf vel = (hundredths : Rat) / 100 ∨ withinHalfSpacing ((hundredths : Rat) / 100) vel) ∧
    (hundredths = 0 → vel = plusZero)

theorem nearestEven_of_storesHundredths {vel : F32} {hundredths : Nat}
    (h : storesHundredths vel hundredths) : nearestEven ((hundredths : Rat) / 100) vel := by
  obtain ⟨hfin, hexact | hnear, _⟩ := h
  · exact nearestEven_of_exact hfin hexact
  · exact nearestEven_of_withinHalfSpacing hfin hnear

theorem builtin_thresholds (v : Variant) :
    (builtinTable v).points.map CalPoint.raw
      = (decimalTable v).map (fun d => BitVec.ofNat 12 d.1) := by
  cases v <;> decide

theorem builtin_velocities (v : Variant) :
    ∀ e ∈ (builtinTable v).points.zip (decimalTable v), storesHundredths e.1.vel e.2.2 := by
  unfold storesHundredths withinHalfSpacing
  cases v <;> decide +kernel

/-- Settles O15: entry by entry, every stored velocity is the decimal itself or the one value within
half a spacing of it. -/
theorem romHoldsNearestOfDecimals : Obligations.RomHoldsNearestOfDecimals := by
  refine fun v => ⟨builtin_thresholds v, fun k p d hp hd => ?_⟩
  have hmem : (p, d) ∈ (builtinTable v).points.zip (decimalTable v) :=
    List.mem_of_getElem? (List.getElem?_zip_eq_some.2 ⟨hp, hd⟩)
  have hstores := builtin_velocities v (p, d) hmem
  have ⟨_, _, hzero⟩ := hstores
  exact ⟨nearestEven_of_storesHundredths hstores, hzero⟩

/-! ## Two inputs of one moment -/

/-- The turn is that of the two inputs presented one after the other, in the order the free value picks. -/
theorem nextTurn_of_together {s : State} {cw : CommandWord} {e : Event} {rest : List Input}
    (h : s.inbox = .together cw e :: rest) :
    s.nextTurn =
      State.nextTurn
        (if Config.commandFirst s.ties then
          { s with inbox := .wire (.command cw) :: .wire (.event e) :: rest, ties := s.ties + 1 }
        else
          { s with inbox := .wire (.event e) :: .wire (.command cw) :: rest, ties := s.ties + 1 }) := by
  rw [State.nextTurn, h]
  cases Config.commandFirst s.ties <;> rfl

theorem step_congr_nextTurn {s t : State} (h : s.nextTurn = t.nextTurn) : step s = step t := by
  rw [step, step, h]

/-- Settles O44: the free value picks the order; either way the step is that of the two in sequence. -/
theorem simultaneousInputsAreSerialized : Obligations.SimultaneousInputsAreSerialized := by
  intro s cw e rest h
  have hstep := step_congr_nextTurn (nextTurn_of_together h)
  cases hfirst : Config.commandFirst s.ties with
  | true => exact .inl (by rwa [hfirst] at hstep)
  | false => exact .inr (by rwa [hfirst] at hstep)

end Sys2Proof.Machine
end

section
/-! PROOFS. The encoding (spec/30_encoding.md): the formats of a command word, decoding and encoding
as inverses, the fields of an event, the verdict on a command word, and the text form. -/

namespace Sys2Proof.Machine

open Sys2Proof.Laws.EncodedFields (opcodeOf_commandWord portCode Statement)

/-! ## The fields of a word -/

@[simp] theorem operandOf_commandWord (op : BitVec 8) (d : BitVec 40) :
    operandOf (commandWord op d) = d :=
  BitVec.extractLsb'_append_eq_right

@[simp] theorem commandWord_opcodeOf_operandOf (cw : CommandWord) :
    commandWord (opcodeOf cw) (operandOf cw) = cw := by
  apply BitVec.eq_of_toNat_eq
  rw [commandWord_toNat, opcodeOf_toNat, operandOf_toNat]
  omega

@[simp] theorem packetOfBits_bitsOfPacket (p : Packet) : packetOfBits (bitsOfPacket p) = p := by
  have hbits := bitsOfPacket_toNat p
  have byte_eq {b : Byte} {start : Nat}
      (h : (bitsOfPacket p).toNat / 2 ^ start % 2 ^ 8 = b.toNat) :
      (bitsOfPacket p).extractLsb' start 8 = b := by
    apply BitVec.eq_of_toNat_eq
    rw [BitVec.extractLsb'_toNat, Nat.shiftRight_eq_div_pow, h]
  unfold packetOfBits
  congr 1 <;> apply byte_eq <;> omega

@[simp] theorem bitsOfPacket_packetOfBits (d : BitVec 40) : bitsOfPacket (packetOfBits d) = d := by
  apply BitVec.eq_of_toNat_eq
  rw [bitsOfPacket_toNat]
  simp only [packetOfBits, BitVec.extractLsb'_toNat, Nat.shiftRight_eq_div_pow]
  omega

/-- The measurement is the lower 12 bits of the operand field (R53). -/
theorem measurement_commandWord (op : BitVec 8) (m : Raw) :
    (commandWord op (operandM m)).extractLsb' 0 12 = m := by
  apply BitVec.eq_of_toNat_eq
  rw [BitVec.extractLsb'_toNat, Nat.shiftRight_eq_div_pow, commandWord_toNat, operandM_toNat]
  omega

theorem mbzField_toNat (cw : CommandWord) :
    (cw.extractLsb' 12 28).toNat = cw.toNat / 2 ^ 12 % 2 ^ 28 := by
  rw [BitVec.extractLsb'_toNat, Nat.shiftRight_eq_div_pow]

/-- The must-be-zero field of format M, `cw[39:12]`, is zero exactly when the word is a measurement
under its opcode (R53). -/
theorem mbzField_eq_zero_iff (cw : CommandWord) :
    cw.extractLsb' 12 28 = 0 ↔ operandOf cw = operandM (cw.extractLsb' 0 12) := by
  rw [← BitVec.toNat_inj, ← BitVec.toNat_inj, mbzField_toNat, operandOf_toNat, operandM_toNat,
    BitVec.extractLsb'_toNat, Nat.shiftRight_eq_div_pow, BitVec.ofNat_eq_ofNat, BitVec.toNat_zero]
  omega

/-! ## The three formats on what the encoder writes -/

theorem decodeP_commandWord (op : BitVec 8) (p : Packet) (f : Packet → Instr) :
    decodeP (commandWord op (bitsOfPacket p)) f = .instr (f p) := by
  rw [decodeP, operandOf_commandWord, packetOfBits_bitsOfPacket]

theorem decodeM_commandWord (op : BitVec 8) (m : Raw) (f : Raw → Instr) :
    decodeM (commandWord op (operandM m)) f = .instr (f m) := by
  have hm := measurement_commandWord op m
  have hzero : (commandWord op (operandM m)).extractLsb' 12 28 = 0 := by
    rw [mbzField_eq_zero_iff, operandOf_commandWord, hm]
  rw [decodeM, if_pos hzero, hm]

theorem decodeZ_commandWord (op : BitVec 8) (i : Instr) :
    decodeZ (commandWord op 0) i = .instr i :=
  if_pos (operandOf_commandWord op 0)

/-! ## The rows of the opcode map (R55) -/

theorem decodeCommand_validate {cw : CommandWord} (h : opcodeOf cw = 0x01) :
    decodeCommand cw = decodeP cw .validate := by
  rw [decodeCommand, h]; rfl

theorem decodeCommand_extract {cw : CommandWord} (h : opcodeOf cw = 0x02) :
    decodeCommand cw = decodeP cw .extract := by
  rw [decodeCommand, h]; rfl

theorem decodeCommand_interp {cw : CommandWord} (h : opcodeOf cw = 0x03) :
    decodeCommand cw = decodeM cw .interp := by
  rw [decodeCommand, h]; rfl

theorem decodeCommand_probe {cw : CommandWord} (h : opcodeOf cw = 0x04) :
    decodeCommand cw = decodeZ cw .probe := by
  rw [decodeCommand, h]; rfl

theorem decodeCommand_readraw {cw : CommandWord} (h : opcodeOf cw = 0x05) :
    decodeCommand cw = decodeZ cw .readraw := by
  rw [decodeCommand, h]; rfl

theorem decodeCommand_readvel {cw : CommandWord} (h : opcodeOf cw = 0x06) :
    decodeCommand cw = decodeZ cw .readvel := by
  rw [decodeCommand, h]; rfl

theorem decodeCommand_ack {cw : CommandWord} (h : opcodeOf cw = 0x07) :
    decodeCommand cw = decodeZ cw .ack := by
  rw [decodeCommand, h]; rfl

theorem decodeCommand_abort {cw : CommandWord} (h : opcodeOf cw = 0x08) :
    decodeCommand cw = decodeZ cw .abort := by
  rw [decodeCommand, h]; rfl

/-- No row of the map has this opcode. -/
def illegalOpcode (op : BitVec 8) : Prop := op.toNat = 0 ∨ 9 ≤ op.toNat

theorem decodeCommand_illegal {cw : CommandWord} (h : illegalOpcode (opcodeOf cw)) :
    decodeCommand cw = .illegal := by
  unfold illegalOpcode at h
  unfold decodeCommand
  split
  case h_9 => rfl
  all_goals omega

theorem decode_encode (i : Instr) : decode (encode i) = .instr i := by
  cases i with
  | validate p =>
    exact (decodeCommand_validate (opcodeOf_commandWord _ _)).trans (decodeP_commandWord _ p _)
  | extract p =>
    exact (decodeCommand_extract (opcodeOf_commandWord _ _)).trans (decodeP_commandWord _ p _)
  | interp m =>
    exact (decodeCommand_interp (opcodeOf_commandWord _ _)).trans (decodeM_commandWord _ m _)
  | probe =>
    exact (decodeCommand_probe (opcodeOf_commandWord _ _)).trans (decodeZ_commandWord _ _)
  | readraw =>
    exact (decodeCommand_readraw (opcodeOf_commandWord _ _)).trans (decodeZ_commandWord _ _)
  | readvel =>
    exact (decodeCommand_readvel (opcodeOf_commandWord _ _)).trans (decodeZ_commandWord _ _)
  | ack =>
    exact (decodeCommand_ack (opcodeOf_commandWord _ _)).trans (decodeZ_commandWord _ _)
  | abort =>
    exact (decodeCommand_abort (opcodeOf_commandWord _ _)).trans (decodeZ_commandWord _ _)
  | rxdone p => exact congrArg (Decoded.instr ∘ Instr.rxdone) (packetOfBits_bitsOfPacket p)
  | txndone => rfl
  | terr e => rfl

/-- Settles O2: each row of the opcode map finds its own opcode, and each format cuts out the fields
that the encoder joined. -/
theorem decodeInvertsEncode : Obligations.DecodeInvertsEncode :=
  fun i => ⟨by cases i <;> rfl, decode_encode i⟩

/-! ## What a decoded word can be -/

/-- How a word is decoded: its opcode has no row, or it is read in the format of its row, and the
encoder writes the row's instruction under that opcode (R52 to R55). -/
inductive ReadInFormat (cw : CommandWord) : Prop
  | illegal (hop : illegalOpcode (opcodeOf cw)) (hd : decodeCommand cw = .illegal)
  | formatP (f : Packet → Instr) (hlow : 1 ≤ (opcodeOf cw).toNat) (hhigh : (opcodeOf cw).toNat ≤ 2)
      (hd : decodeCommand cw = decodeP cw f)
      (henc : ∀ p, encode (f p) = .command (commandWord (opcodeOf cw) (bitsOfPacket p)))
  | formatM (f : Raw → Instr) (hop : (opcodeOf cw).toNat = 3) (hd : decodeCommand cw = decodeM cw f)
      (henc : ∀ m, encode (f m) = .command (commandWord (opcodeOf cw) (operandM m)))
  | formatZ (i : Instr) (hlow : 4 ≤ (opcodeOf cw).toNat) (hhigh : (opcodeOf cw).toNat ≤ 8)
      (hd : decodeCommand cw = decodeZ cw i)
      (henc : encode i = .command (commandWord (opcodeOf cw) 0))

theorem readInFormat (cw : CommandWord) : ReadInFormat cw := by
  have hrow : illegalOpcode (opcodeOf cw) ∨ opcodeOf cw = 0x01 ∨ opcodeOf cw = 0x02 ∨
      opcodeOf cw = 0x03 ∨ opcodeOf cw = 0x04 ∨ opcodeOf cw = 0x05 ∨ opcodeOf cw = 0x06 ∨
      opcodeOf cw = 0x07 ∨ opcodeOf cw = 0x08 := by
    unfold illegalOpcode
    bv_omega
  rcases hrow with h | h | h | h | h | h | h | h | h
  · exact .illegal h (decodeCommand_illegal h)
  · exact .formatP .validate (by simp [h]) (by simp [h]) (decodeCommand_validate h)
      (fun _ => by rw [h]; rfl)
  · exact .formatP .extract (by simp [h]) (by simp [h]) (decodeCommand_extract h)
      (fun _ => by rw [h]; rfl)
  · exact .formatM .interp (by simp [h]) (decodeCommand_interp h) (fun _ => by rw [h]; rfl)
  · exact .formatZ .probe (by simp [h]) (by simp [h]) (decodeCommand_probe h) (by rw [h]; rfl)
  · exact .formatZ .readraw (by simp [h]) (by simp [h]) (decodeCommand_readraw h) (by rw [h]; rfl)
  · exact .formatZ .readvel (by simp [h]) (by simp [h]) (decodeCommand_readvel h) (by rw [h]; rfl)
  · exact .formatZ .ack (by simp [h]) (by simp [h]) (decodeCommand_ack h) (by rw [h]; rfl)
  · exact .formatZ .abort (by simp [h]) (by simp [h]) (decodeCommand_abort h) (by rw [h]; rfl)

/-! ## Encoding what was decoded -/

theorem decodeM_eq_instr {cw : CommandWord} {f : Raw → Instr} {i : Instr}
    (h : decodeM cw f = .instr i) :
    cw.extractLsb' 12 28 = 0 ∧ i = f (cw.extractLsb' 0 12) := by
  unfold decodeM at h
  split at h
  next hzero => exact ⟨hzero, (Decoded.instr.inj h).symm⟩
  next => cases h

theorem decodeZ_eq_instr {cw : CommandWord} {i j : Instr} (h : decodeZ cw j = .instr i) :
    operandOf cw = 0 ∧ i = j := by
  unfold decodeZ at h
  split at h
  next hzero => exact ⟨hzero, (Decoded.instr.inj h).symm⟩
  next => cases h

theorem encode_of_decodeCommand {cw : CommandWord} {i : Instr} (h : decodeCommand cw = .instr i) :
    encode i = .command cw := by
  cases readInFormat cw with
  | illegal _ hd =>
    rw [hd] at h
    cases h
  | formatP f _ _ hd henc =>
    cases hd.symm.trans h
    rw [henc, bitsOfPacket_packetOfBits, commandWord_opcodeOf_operandOf]
  | formatM f _ hd henc =>
    obtain ⟨hzero, rfl⟩ := decodeM_eq_instr (hd.symm.trans h)
    rw [henc, ← (mbzField_eq_zero_iff cw).1 hzero, commandWord_opcodeOf_operandOf]
  | formatZ j _ _ hd henc =>
    obtain ⟨hzero, rfl⟩ := decodeZ_eq_instr (hd.symm.trans h)
    rw [henc, ← hzero, commandWord_opcodeOf_operandOf]

/-- Settles O3: a word that decodes is its opcode with the operand field its format rebuilds. -/
theorem encodeInvertsDecodeOnCommands : Obligations.EncodeInvertsDecodeOnCommands :=
  fun _ _ h => encode_of_decodeCommand h

/-! ## Events and fixed words -/

theorem decodeEvent_rxdone (d : BitVec 40) (e : TErr) :
    decodeEvent ⟨1, d, e⟩ = .instr (.rxdone (packetOfBits d)) := rfl

/-- Settles O4: the kind alone selects the event, and the packet layout is a bijection. -/
theorem eventFieldsAreRead : Obligations.EventFieldsAreRead := by
  refine ⟨fun p e => ?_, fun _ _ => rfl, fun _ _ => rfl, fun _ _ => rfl, fun d k _ => ?_⟩
  · rw [decodeEvent_rxdone, packetOfBits_bitsOfPacket]
  · rw [bitsOfPacket_packetOfBits]

/-- Settles O1: six command words evaluated, and an event of any `terr`. -/
theorem specWordsDecode : Obligations.SpecWordsDecode :=
  ⟨by decide, by decide, by decide, by decide, by decide, by decide,
    fun e => decodeEvent_rxdone 0x3A04C20000 e⟩

/-! ## The verdict (R56) -/

/-- The must-be-zero bits by format: none in format P, `cw[39:12]` in M, the operand field in Z. -/
theorem mbzSet_iff {cw : CommandWord} :
    mbzSet cw = true ↔
      ((opcodeOf cw).toNat = 3 ∧ cw.extractLsb' 12 28 ≠ 0) ∨
        (4 ≤ (opcodeOf cw).toNat ∧ (opcodeOf cw).toNat ≤ 8 ∧ operandOf cw ≠ 0) := by
  rw [ne_eq, ne_eq, ← BitVec.toNat_inj, ← BitVec.toNat_inj, mbzField_toNat, operandOf_toNat,
    opcodeOf_toNat]
  simp [mbzSet, and_assoc]

theorem not_mbzSet_of_formatP {cw : CommandWord} (h : (opcodeOf cw).toNat ≤ 2) :
    ¬ mbzSet cw = true := by
  rw [mbzSet_iff]
  omega

theorem mbzSet_iff_of_formatM {cw : CommandWord} (h : (opcodeOf cw).toNat = 3) :
    mbzSet cw = true ↔ cw.extractLsb' 12 28 ≠ 0 := by
  simp [mbzSet_iff, h]

theorem mbzSet_iff_of_formatZ {cw : CommandWord} (hlow : 4 ≤ (opcodeOf cw).toNat)
    (hhigh : (opcodeOf cw).toNat ≤ 8) : mbzSet cw = true ↔ operandOf cw ≠ 0 := by
  have h3 : (opcodeOf cw).toNat ≠ 3 := by omega
  simp [mbzSet_iff, h3, hlow, hhigh]

theorem verdict_of_illegalOpcode {cw : CommandWord} (h : illegalOpcode (opcodeOf cw)) (st : St) :
    verdict cw st = .rejIllegal := by
  rw [illegalOpcode, opcodeOf_toNat] at h
  rw [verdict, if_pos h]

theorem verdict_of_mbzSet {cw : CommandWord} (h : ¬ illegalOpcode (opcodeOf cw))
    (hmbz : mbzSet cw = true) (st : St) : verdict cw st = .rejReserved := by
  rw [illegalOpcode, opcodeOf_toNat] at h
  rw [verdict, if_neg h, if_pos hmbz]

theorem verdict_of_not_mbzSet {cw : CommandWord} (h : ¬ illegalOpcode (opcodeOf cw))
    (hmbz : ¬ mbzSet cw = true) (st : St) :
    verdict cw st =
      if opcodeAccepted (opcodeOf cw).toNat st then .accept else .rejState := by
  rw [illegalOpcode, opcodeOf_toNat] at h
  rw [verdict, if_neg h, if_neg hmbz, opcodeOf_toNat]

/-- What the first three tests of R56 say of the bits of a word that decodes so. -/
def bitsGive (cw : CommandWord) : Decoded → Prop
  | .illegal => illegalOpcode (opcodeOf cw)
  | .reserved => ¬ illegalOpcode (opcodeOf cw) ∧ mbzSet cw = true
  | .instr _ => ¬ illegalOpcode (opcodeOf cw) ∧ ¬ mbzSet cw = true
  | .noEvent => False

/-- A format that tests its must-be-zero bits: `clear` says that they are 0. -/
theorem bitsGive_of_test {cw : CommandWord} {clear : Prop} [Decidable clear] {i : Instr}
    (hop : ¬ illegalOpcode (opcodeOf cw)) (hmbz : mbzSet cw = true ↔ ¬ clear) :
    bitsGive cw (if clear then .instr i else .reserved) := by
  split
  next hclear => exact ⟨hop, fun h => hmbz.1 h hclear⟩
  next hset => exact ⟨hop, hmbz.2 hset⟩

/-- The decoder and the bits agree. -/
theorem bitsGive_decodeCommand (cw : CommandWord) : bitsGive cw (decodeCommand cw) := by
  cases readInFormat cw with
  | illegal hop hd =>
    rw [hd]
    exact hop
  | formatP f hlow hhigh hd _ =>
    rw [hd]
    exact ⟨by unfold illegalOpcode; omega, not_mbzSet_of_formatP hhigh⟩
  | formatM f hop hd _ =>
    rw [hd]
    exact bitsGive_of_test (by unfold illegalOpcode; omega) (mbzSet_iff_of_formatM hop)
  | formatZ i hlow hhigh hd _ =>
    rw [hd]
    exact bitsGive_of_test (by unfold illegalOpcode; omega) (mbzSet_iff_of_formatZ hlow hhigh)

/-! ## A command word runs as its verdict says -/

theorem encodedFields (i : Instr) : Statement i := by
  cases i with
  | validate p => exact Laws.EncodedFields.validate p
  | extract p => exact Laws.EncodedFields.extract p
  | interp m => exact Laws.EncodedFields.interp m
  | probe => exact Laws.EncodedFields.probe
  | readraw => exact Laws.EncodedFields.readraw
  | readvel => exact Laws.EncodedFields.readvel
  | ack => exact Laws.EncodedFields.ack
  | abort => exact Laws.EncodedFields.abort
  | rxdone p => exact Laws.EncodedFields.rxdone p
  | txndone => exact Laws.EncodedFields.txndone
  | terr e => exact Laws.EncodedFields.terr e

/-- A command word decodes to a command only, the one of its opcode. -/
theorem opcode_of_decodeCommand {cw : CommandWord} {i : Instr} (h : decodeCommand cw = .instr i) :
    isCommand i = true ∧ (opcodeOf cw).toNat = portCode i := by
  have hfields := encodedFields i
  rw [Statement, encode_of_decodeCommand h] at hfields
  exact hfields

theorem acceptsStart_eq_opcodeAccepted {op : Nat} (h : op ≤ 6) :
    acceptsStart = opcodeAccepted op := by
  funext st
  rw [opcodeAccepted, if_pos h]
  cases st <;> rfl

theorem acceptsAck_eq_opcodeAccepted : acceptsAck = opcodeAccepted 7 := by
  funext st
  cases st <;> rfl

theorem acceptsAbort_eq_opcodeAccepted : acceptsAbort = opcodeAccepted 8 := by
  funext st
  cases st <;> rfl

/-- A command runs in the states that R56 lists for its opcode, answers `ACCEPT` and leaves the
inbox. -/
theorem exec_command {i : Instr} (h : isCommand i = true) (s : State) :
    ∃ u, exec i s = whenAccepted (opcodeAccepted (portCode i)) s (.next u) ∧
      u.ports.resp = some .accept ∧ u.inbox = s.inbox := by
  cases i with
  | validate p | extract p | interp m | probe | readraw | readvel =>
    rw [← acceptsStart_eq_opcodeAccepted (by simp [portCode])]
    exact ⟨_, rfl, rfl, rfl⟩
  | ack =>
    rw [portCode, ← acceptsAck_eq_opcodeAccepted]
    exact ⟨_, rfl, rfl, rfl⟩
  | abort =>
    rw [portCode, ← acceptsAbort_eq_opcodeAccepted]
    exact ⟨_, rfl, rfl, rfl⟩
  | rxdone p | txndone | terr e => cases h

/-- A command word is accepted and runs its instruction, or is answered its verdict and nothing
else. -/
theorem runDecoded_command (cw : CommandWord) (s : State) :
    (verdict cw s.regs.st = .accept ∧ ∃ i t, decodeCommand cw = .instr i ∧ exec i s = .next t ∧
        t.ports.resp = some .accept ∧ t.inbox = s.inbox) ∨
      (verdict cw s.regs.st ≠ .accept ∧
        runDecoded (decodeCommand cw) s = .next (s.respond (verdict cw s.regs.st))) := by
  have hbits := bitsGive_decodeCommand cw
  cases hd : decodeCommand cw with
  | illegal =>
    rw [hd] at hbits
    rw [verdict_of_illegalOpcode hbits]
    exact .inr ⟨by decide, rfl⟩
  | reserved =>
    rw [hd] at hbits
    rw [verdict_of_mbzSet hbits.1 hbits.2]
    exact .inr ⟨by decide, rfl⟩
  | noEvent =>
    rw [hd] at hbits
    cases hbits
  | instr i =>
    rw [hd] at hbits
    obtain ⟨hcommand, hop⟩ := opcode_of_decodeCommand hd
    obtain ⟨u, hexec, hresp, hinbox⟩ := exec_command hcommand s
    rw [verdict_of_not_mbzSet hbits.1 hbits.2, hop]
    cases ha : opcodeAccepted (portCode i) s.regs.st with
    | true => exact .inl ⟨rfl, i, u, rfl, hexec.trans (whenAccepted_of_true ha), hresp, hinbox⟩
    | false => exact .inr ⟨by decide, hexec.trans (whenAccepted_of_false ha)⟩

/-- Settles O5: the step runs the decoded word on the state with the word taken. -/
theorem commandWordGetsItsVerdict : Obligations.CommandWordGetsItsVerdict := by
  intro s cw rest h
  have hstep : step s = runDecoded (decodeCommand cw) { s with inbox := rest } := step_of_wire h
  rcases runDecoded_command cw { s with inbox := rest } with
    ⟨haccept, i, t, hd, hexec, hresp, hinbox⟩ | ⟨hreject, hrun⟩
  · refine ⟨t, ?_, hinbox, ?_, fun look => ?_, fun _ => ⟨i, hd, hexec⟩,
      fun hne => absurd haccept hne⟩
    · rw [hstep, hd]
      exact hexec
    · rw [hresp, haccept]
    · rw [haccept, State.pins, hresp]
      rfl
  · exact ⟨_, hstep.trans hrun, rfl, rfl, fun _ => rfl, fun haccept => absurd haccept hreject,
      fun _ => rfl⟩

/-! ## The words of a written line (R61) -/

/-- A character that neither parts words nor starts a comment. -/
def inWord (c : Char) : Bool := c != ' ' && c != '\t' && c != ';'

/-- The characters of one word. -/
def isWord (w : List Char) : Bool := !w.isEmpty && w.all inWord

/-- Operands, each after one blank. -/
def spaced (tokens : List (List Char)) : List Char := tokens.flatMap (' ' :: ·)

theorem dropComment_of_no_semicolon {text : List Char} (h : ';' ∉ text) :
    dropComment text = text := by
  induction text with
  | nil => rfl
  | cons c rest ih =>
    obtain ⟨hc, hrest⟩ := List.ne_and_not_mem_of_not_mem_cons h
    rw [dropComment, if_neg hc.symm, ih hrest]

/-- The characters of a word gather in front of the one being read. -/
theorem words_append {w : List Char} (h : w.all inWord = true) (word rest : List Char) :
    words word (w ++ rest) = words (w.reverse ++ word) rest := by
  induction w generalizing word with
  | nil => rfl
  | cons c w ih =>
    simp only [List.all_cons, inWord, Bool.and_eq_true, bne_iff_ne] at h
    obtain ⟨⟨⟨hblank, htab⟩, _⟩, hw⟩ := h
    rw [List.cons_append, words, if_neg (by simp [hblank, htab]), ih hw]
    simp

theorem isWord_iff {w : List Char} : isWord w = true ↔ w ≠ [] ∧ w.all inWord = true := by
  simp [isWord]

/-- A word ends at the blank before the next operand, or at the end of the line. -/
theorem words_append_spaced {w : List Char} {tokens : List (List Char)} (hw : isWord w = true)
    (htokens : ∀ t ∈ tokens, isWord t = true) : words [] (w ++ spaced tokens) = w :: tokens := by
  induction tokens generalizing w with
  | nil =>
    obtain ⟨hne, hall⟩ := isWord_iff.1 hw
    rw [words_append hall]
    simp [spaced, words, hne]
  | cons t tokens ih =>
    obtain ⟨hne, hall⟩ := isWord_iff.1 hw
    obtain ⟨ht, hrest⟩ := List.forall_mem_cons.1 htokens
    have hspaced : spaced (t :: tokens) = ' ' :: (t ++ spaced tokens) := rfl
    rw [words_append hall, hspaced, words, ih ht hrest]
    simp [hne]

theorem semicolon_notMem {w : List Char} (h : isWord w = true) : ';' ∉ w := fun hmem =>
  absurd (List.all_eq_true.1 (isWord_iff.1 h).2 _ hmem) (by decide)

/-- A line written as a mnemonic and its operands is read by them. -/
theorem readLine_append_spaced {w : List Char} {tokens : List (List Char)} (hw : isWord w = true)
    (htokens : ∀ t ∈ tokens, isWord t = true) :
    readLine (w ++ spaced tokens) = lineOfWords (w :: tokens) := by
  have hno : ';' ∉ w ++ spaced tokens := by
    simp only [spaced, List.mem_append, List.mem_flatMap, List.mem_cons, not_or, not_exists,
      not_and]
    exact ⟨semicolon_notMem hw, fun t ht => ⟨by decide, semicolon_notMem (htokens t ht)⟩⟩
  rw [readLine, dropComment_of_no_semicolon hno, words_append_spaced hw htokens]

/-- A mnemonic alone. -/
theorem readLine_mnemonic {w : List Char} (hw : isWord w = true) :
    readLine w = lineOfWords [w] := by
  have hline := readLine_append_spaced (tokens := []) hw (by simp)
  rwa [spaced, List.flatMap_nil, List.append_nil] at hline

/-! ## Numerals -/

theorem hexValue_hexDigit {n : Nat} (h : n < 16) : hexValue (hexDigit n) = some n := by
  revert n
  decide

theorem inWord_hexDigit {n : Nat} (h : n < 16) : inWord (hexDigit n) = true := by
  revert n
  decide

/-- One more hexadecimal digit. -/
theorem readDigits_hexDigit {n : Nat} (h : n < 16) (acc : Nat) (rest : List Char) :
    readDigits 16 hexValue acc (hexDigit n :: rest) =
      readDigits 16 hexValue (acc * 16 + n) rest := by
  rw [readDigits, hexValue_hexDigit h]

/-- The two digits of a byte. -/
def byteToken (b : Byte) : List Char := [hexDigit (b.toNat / 16), hexDigit (b.toNat % 16)]

theorem isWord_byteToken (b : Byte) : isWord (byteToken b) = true := by
  have hb := b.isLt
  have hhigh := inWord_hexDigit (show b.toNat / 16 < 16 by omega)
  have hlow := inWord_hexDigit (show b.toNat % 16 < 16 by omega)
  simp [isWord_iff, byteToken, hhigh, hlow]

theorem readByte_byteToken (b : Byte) : readByte (byteToken b) = some b.toNat := by
  have hb := b.isLt
  have hdigits : readByte (byteToken b) = readDigits 16 hexValue 0
      [hexDigit (b.toNat / 16), hexDigit (b.toNat % 16)] := rfl
  rw [hdigits, readDigits_hexDigit (by omega), readDigits_hexDigit (by omega), readDigits]
  congr 1
  omega

/-- The bytes of a packet in index order. -/
def packetBytes (p : Packet) : List Byte := [p.b0, p.b1, p.b2, p.b3, p.b4]

theorem writePacket_eq_spaced (p : Packet) :
    writePacket p = spaced ((packetBytes p).map byteToken) := rfl

theorem readBytes_map_byteToken (bytes : List Byte) :
    readBytes (bytes.map byteToken) = some (bytes.map BitVec.toNat) := by
  induction bytes with
  | nil => rfl
  | cons b bytes ih => rw [List.map_cons, readBytes, readByte_byteToken, ih]; rfl

theorem bytesWf_packetBytes (p : Packet) : bytesWf ((packetBytes p).map BitVec.toNat) = true := by
  have hbyte (b : Byte) : b.toNat ≤ 255 := Nat.le_of_lt_succ b.isLt
  simp [bytesWf, packetBytes, hbyte]

theorem packetOfList_packetBytes (p : Packet) :
    packetOfList ((packetBytes p).map BitVec.toNat) = some p := by
  simp [packetBytes, packetOfList]

/-- `0x` and the three digits of a measurement. -/
def measurementToken (m : Raw) : List Char :=
  ['0', 'x', hexDigit (m.toNat / 256), hexDigit (m.toNat / 16 % 16), hexDigit (m.toNat % 16)]

theorem isWord_measurementToken (m : Raw) : isWord (measurementToken m) = true := by
  have hm := m.isLt
  have hhigh := inWord_hexDigit (show m.toNat / 256 < 16 by omega)
  have hmid := inWord_hexDigit (show m.toNat / 16 % 16 < 16 by omega)
  have hlow := inWord_hexDigit (show m.toNat % 16 < 16 by omega)
  have hbase : inWord '0' = true ∧ inWord 'x' = true := by decide
  simp [isWord_iff, measurementToken, hbase, hhigh, hmid, hlow]

theorem readMeasurement_measurementToken (m : Raw) :
    readMeasurement (measurementToken m) = some m.toNat := by
  have hm := m.isLt
  have hdigits : readMeasurement (measurementToken m) = readDigits 16 hexValue 0
      [hexDigit (m.toNat / 256), hexDigit (m.toNat / 16 % 16), hexDigit (m.toNat % 16)] := rfl
  rw [hdigits, readDigits_hexDigit (by omega), readDigits_hexDigit (by omega),
    readDigits_hexDigit (by omega), readDigits]
  congr 1
  omega

/-! ## Lines -/

/-- A line is read as well formed and assembles to `i`. -/
def readsAs (text : List Char) (i : Instr) : Prop :=
  ∃ l, readLine text = .line l ∧ l.wf = true ∧ assembleLine l = some i

theorem readsAs_of_instrOfLine {text : List Char} {l : AsmLine} {i : Instr}
    (hline : readLine text = .line l) (hwf : l.wf = true) (hinstr : instrOfLine l = some i) :
    readsAs text i :=
  ⟨l, hline, hwf, (if_pos hwf).trans hinstr⟩

/-- A mnemonic that takes no operand. -/
theorem readsAs_mnemonic {w : List Char} {l : AsmLine} {i : Instr} (hw : isWord w = true)
    (hline : lineOfWords [w] = .line l) (hwf : l.wf = true) (hinstr : instrOfLine l = some i) :
    readsAs w i :=
  readsAs_of_instrOfLine ((readLine_mnemonic hw).trans hline) hwf hinstr

/-- A mnemonic that takes a packet. -/
theorem readsAs_packet {w : List Char} {f : List Nat → AsmLine} {g : Packet → Instr} (p : Packet)
    (hw : isWord w = true) (hline : ∀ tokens, lineOfWords (w :: tokens) = packetLine f tokens)
    (hwf : ∀ bytes, (f bytes).wf = bytesWf bytes)
    (hinstr : ∀ bytes, instrOfLine (f bytes) = (packetOfList bytes).map g) :
    readsAs (w ++ writePacket p) (g p) := by
  refine readsAs_of_instrOfLine (l := f ((packetBytes p).map BitVec.toNat)) ?_ ?_ ?_
  · rw [writePacket_eq_spaced, readLine_append_spaced hw, hline, packetLine,
      readBytes_map_byteToken]
    intro t ht
    obtain ⟨b, _, rfl⟩ := List.mem_map.1 ht
    exact isWord_byteToken b
  · rw [hwf, bytesWf_packetBytes]
  · rw [hinstr, packetOfList_packetBytes, Option.map_some]

theorem readsAs_interp (m : Raw) : readsAs (disassemble (.interp m)) (.interp m) := by
  refine readsAs_of_instrOfLine (l := .interp m.toNat) ?_ ?_ ?_
  · have hspaced : disassemble (.interp m) = "INTERP".toList ++ spaced [measurementToken m] := rfl
    rw [hspaced, readLine_append_spaced (by decide) (by simp [isWord_measurementToken])]
    simp [lineOfWords, readMeasurement_measurementToken]
  · exact decide_eq_true (Nat.le_of_lt_succ m.isLt)
  · rw [instrOfLine, BitVec.ofNat_toNat, BitVec.setWidth_eq]

/-- Settles O6: a line is written as a mnemonic and operands, each one word, whose digits are read
back. -/
theorem assemblerReadsWrittenForm : Obligations.AssemblerReadsWrittenForm := by
  intro i hterr
  change readsAs (disassemble i) i
  cases i with
  | validate p => exact readsAs_packet p (by decide) (fun _ => rfl) (fun _ => rfl) (fun _ => rfl)
  | extract p => exact readsAs_packet p (by decide) (fun _ => rfl) (fun _ => rfl) (fun _ => rfl)
  | rxdone p => exact readsAs_packet p (by decide) (fun _ => rfl) (fun _ => rfl) (fun _ => rfl)
  | interp m => exact readsAs_interp m
  | probe | readraw | readvel | ack | abort | txndone =>
    exact readsAs_mnemonic (by decide) rfl rfl rfl
  | terr e => exact absurd rfl (hterr e)

end Sys2Proof.Machine
end

section
/-! PROOFS. The Packet Codec (spec/40_packet_codec.md): the checksum and the measurement of a packet
(R70, R71), the packets that carry a given measurement (R75), and the commands `VALIDATE` and `EXTRACT`
(R72, R73). -/

namespace Sys2Proof.Machine

open Sys2Proof.Laws.EncodedFields (opcodeOf_commandWord)

/-! ## The checksum (R70) -/

theorem validPacket_iff_sum8 (p : Packet) : validPacket p = true ↔ sum8 p = 0 := beq_iff_eq

theorem sum8_toNat (p : Packet) :
    (sum8 p).toNat =
      (p.b0.toNat + p.b1.toNat + p.b2.toNat + p.b3.toNat + p.b4.toNat) % 256 := by
  simp only [sum8, BitVec.toNat_add]
  omega

/-- The sum taken over the natural numbers and wrapped once decides validity. -/
theorem validPacket_eq_decide (p : Packet) :
    validPacket p = decide
      ((p.b0.toNat + p.b1.toNat + p.b2.toNat + p.b3.toNat + p.b4.toNat) % 256 = 0) := by
  rw [Bool.eq_iff_iff, decide_eq_true_iff, validPacket_iff_sum8, ← sum8_toNat,
    ← BitVec.toNat_inj, BitVec.ofNat_eq_ofNat, BitVec.toNat_zero]

/-- The byte 0 that the other four bytes ask for: the negation of their sum (R75 item 1). -/
def checksumOf (b1 b2 b3 b4 : Byte) : Byte := -(b1 + b2 + b3 + b4)

theorem checksumOf_toNat (b1 b2 b3 b4 : Byte) :
    (checksumOf b1 b2 b3 b4).toNat =
      (256 - (b1.toNat + b2.toNat + b3.toNat + b4.toNat) % 256) % 256 := by
  simp only [checksumOf, BitVec.toNat_neg, BitVec.toNat_add]
  omega

theorem validPacket_iff_checksumOf (p : Packet) :
    validPacket p = true ↔ p.b0 = checksumOf p.b1 p.b2 p.b3 p.b4 := by
  have hsum : sum8 p = p.b0 + (p.b1 + p.b2 + p.b3 + p.b4) := by simp only [sum8, add_assoc]
  rw [validPacket_iff_sum8, hsum]
  exact add_eq_zero_iff_eq_neg

/-- Settles O10: a sum of bytes is zero exactly when the first is the negation of the others' sum. -/
theorem checksumByteIsNegatedSum : Obligations.ChecksumByteIsNegatedSum := fun p => by
  rw [validPacket_iff_checksumOf, ← checksumOf_toNat, BitVec.toNat_inj]

/-- A packet whose sum differs from that of a valid packet is invalid. -/
theorem validPacket_eq_false_of_sum8_ne {p q : Packet} (hp : validPacket p = true)
    (hne : sum8 q ≠ sum8 p) : validPacket q = false := by
  rw [(validPacket_iff_sum8 p).1 hp] at hne
  exact beq_false_of_ne hne

/-- Settles O11: the other four summands cancel, so a different byte gives a different sum. -/
theorem singleByteChangeIsCaught : Obligations.SingleByteChangeIsCaught := by
  intro p b hp
  refine ⟨fun hb => ?_, fun hb => ?_, fun hb => ?_, fun hb => ?_, fun hb => ?_⟩
  all_goals
    apply validPacket_eq_false_of_sum8_ne hp
    simpa only [sum8, ne_eq, add_left_inj, add_right_inj] using hb

/-! ## The measurement (R71) -/

/-- Masking with `0x0F` keeps the low nibble. -/
theorem setWidth_and_lowNibble (b : Byte) :
    (b &&& 0x0F).setWidth 12 = (b.extractLsb' 0 4).setWidth 12 := by
  apply BitVec.eq_of_toNat_eq
  rw [BitVec.toNat_setWidth, BitVec.toNat_setWidth, BitVec.toNat_and, BitVec.extractLsb'_toNat]
  exact congrArg (· % 2 ^ 12) (Nat.and_two_pow_sub_one_eq_mod b.toNat 4)

/-- The shifted nibble and the low byte occupy different bits (R74). -/
theorem extractRaw_eq_append (p : Packet) : extractRaw p = p.b1.extractLsb' 0 4 ++ p.b2 := by
  rw [extractRaw, setWidth_and_lowNibble, ← BitVec.setWidth_append_eq_shiftLeft_setWidth_or,
    BitVec.setWidth_eq]

/-! ## The packet that carries a measurement (R75 item 5) -/

/-- Two neighbouring fields that fill a word are that word. -/
theorem extractLsb'_append_extractLsb'_eq_self (n k : Nat) (x : BitVec (n + k)) :
    x.extractLsb' k n ++ x.extractLsb' 0 k = x := by
  rw [BitVec.extractLsb'_append_extractLsb'_eq_extractLsb' (Nat.zero_add k).symm,
    BitVec.extractLsb'_eq_self]

/-- The packet with measurement `m`, `nibble` above it in byte 1, the given bytes 3 and 4 and the
checksum these ask for. -/
def packetCarrying (m : Raw) (nibble : BitVec 4) (b3 b4 : Byte) : Packet :=
  let b1 : Byte := nibble ++ m.extractLsb' 8 4
  let b2 : Byte := m.extractLsb' 0 8
  { b0 := checksumOf b1 b2 b3 b4, b1, b2, b3, b4 }

theorem validPacket_packetCarrying (m : Raw) (nibble : BitVec 4) (b3 b4 : Byte) :
    validPacket (packetCarrying m nibble b3 b4) = true :=
  (validPacket_iff_checksumOf _).2 rfl

@[simp] theorem extractRaw_packetCarrying (m : Raw) (nibble : BitVec 4) (b3 b4 : Byte) :
    extractRaw (packetCarrying m nibble b3 b4) = m := by
  have hlow : (packetCarrying m nibble b3 b4).b1.extractLsb' 0 4 = m.extractLsb' 8 4 :=
    BitVec.extractLsb'_append_eq_right
  rw [extractRaw_eq_append, hlow]
  exact extractLsb'_append_extractLsb'_eq_self 4 8 m

theorem upperNibble_packetCarrying (m : Raw) (nibble : BitVec 4) (b3 b4 : Byte) :
    (packetCarrying m nibble b3 b4).b1.extractLsb' 4 4 = nibble :=
  BitVec.extractLsb'_append_eq_left

/-- A valid packet is rebuilt from its measurement, its upper nibble and its bytes 3 and 4. -/
theorem packetCarrying_of_validPacket {q : Packet} (hq : validPacket q = true) :
    packetCarrying (extractRaw q) (q.b1.extractLsb' 4 4) q.b3 q.b4 = q := by
  have hb1 : q.b1.extractLsb' 4 4 ++ (extractRaw q).extractLsb' 8 4 = q.b1 := by
    rw [extractRaw_eq_append, BitVec.extractLsb'_append_eq_left]
    exact extractLsb'_append_extractLsb'_eq_self 4 4 q.b1
  have hb2 : (extractRaw q).extractLsb' 0 8 = q.b2 := by
    rw [extractRaw_eq_append, BitVec.extractLsb'_append_eq_right]
  rw [packetCarrying, hb1, hb2, ← (validPacket_iff_checksumOf q).1 hq]

/-- Settles O12: a measurement is reached by the packets that carry it. -/
theorem extractIsConcatenation : Obligations.ExtractIsConcatenation :=
  ⟨extractRaw_eq_append, fun m => ⟨packetCarrying m 0 0 0, extractRaw_packetCarrying m 0 0 0⟩⟩

/-- Settles O13: the four given parts fix bytes 1 to 4, and these fix the checksum. -/
theorem oneValidPacketPerMeasurement : Obligations.OneValidPacketPerMeasurement := by
  intro m nibble b3 b4
  refine ⟨packetCarrying m nibble b3 b4,
    ⟨validPacket_packetCarrying m nibble b3 b4, extractRaw_packetCarrying m nibble b3 b4,
      upperNibble_packetCarrying m nibble b3 b4, rfl, rfl⟩, ?_⟩
  rintro q ⟨hq, rfl, rfl, rfl, rfl⟩
  exact (packetCarrying_of_validPacket hq).symm

/-! ## The commands (R72, R73) -/

/-- Outside `Idle` a datapath or start command is answered `REJ_STATE` (R56). -/
theorem whenAccepted_acceptsStart_of_ne_idle {s : State} {body : Result} (h : s.regs.st ≠ .idle) :
    whenAccepted acceptsStart s body = .next (s.respond .rejState) :=
  whenAccepted_of_false (Bool.eq_false_iff.2 (mt acceptsStart_iff.1 h))

theorem exec_validate_of_idle {p : Packet} {s : State} (h : s.regs.st = .idle) :
    exec (.validate p) s = .next ((s.setV (validPacket p)).respond .accept) :=
  whenAccepted_of_true (acceptsStart_iff.2 h)

theorem exec_extract_of_idle {p : Packet} {s : State} (h : s.regs.st = .idle) :
    exec (.extract p) s = .next ((s.setM (extractRaw p)).respond .accept) :=
  whenAccepted_of_true (acceptsStart_iff.2 h)

/-- Format P has no reserved bit: any operand is a packet (R52). -/
theorem decodeP_of_operand (op : BitVec 8) (d : BitVec 40) (f : Packet → Instr) :
    decodeP (commandWord op d) f = .instr (f (packetOfBits d)) := by
  rw [decodeP, operandOf_commandWord]

/-- Settles O7: `V` is the validity of the packet, written only where the command is accepted. -/
theorem validateWritesOnlyV : Obligations.ValidateWritesOnlyV := by
  refine ⟨fun p s h => ?_, fun p s h => whenAccepted_acceptsStart_of_ne_idle h, fun d => ?_⟩
  · rw [exec_validate_of_idle h, validPacket_eq_decide]
    rfl
  · exact (decodeCommand_validate (opcodeOf_commandWord _ d)).trans (decodeP_of_operand _ d _)

/-- Settles O8: `M` is the packet's measurement, valid or not, written only where the command is
accepted. -/
theorem extractWritesOnlyM : Obligations.ExtractWritesOnlyM := by
  refine ⟨fun p s h => ?_, fun p s h => whenAccepted_acceptsStart_of_ne_idle h, fun d => ?_⟩
  · rw [exec_extract_of_idle h, extractRaw_eq_append]
    rfl
  · exact (decodeCommand_extract (opcodeOf_commandWord _ d)).trans (decodeP_of_operand _ d _)

end Sys2Proof.Machine
end

section
/-! PROOFS. The Interpolator (spec/41_interpolator.md): the binary32 operations round correctly (R85), the
segment search and the clamps (R80 to R82), the evaluation of the formula (R84) with its order, range and
error on the built-in tables (R86, R88), and the command `INTERP` (R87). -/

namespace Sys2Proof.Machine

open Sys2Proof.Laws.EncodedFields (opcodeOf_commandWord)

/-! ## The fields of a packed value (R85) -/

theorem isFinite_iff {x : F32} : isFinite x = true ↔ expOf x < 255 := by
  have h := (x.extractLsb' 23 8).isLt
  rw [isFinite, bne_iff_ne, ne_eq, expOf]
  omega

theorem isNaN_of_isFinite {x : F32} (h : isFinite x = true) : isNaN x = false := by
  simp [isNaN, (isFinite_iff.1 h).ne]

theorem isInf_of_isFinite {x : F32} (h : isFinite x = true) : isInf x = false := by
  simp [isInf, (isFinite_iff.1 h).ne]

theorem expOf_eq (x : F32) : expOf x = x.toNat / 2 ^ 23 % 2 ^ 8 := by
  rw [expOf, BitVec.extractLsb'_toNat, Nat.shiftRight_eq_div_pow]

theorem fracOf_eq (x : F32) : fracOf x = x.toNat % 2 ^ 23 := by
  rw [fracOf, BitVec.extractLsb'_toNat, Nat.shiftRight_zero]

theorem signOf_eq (x : F32) : signOf x = decide (2 ^ 31 ≤ x.toNat) := by
  rw [signOf, ← BitVec.msb_eq_getLsbD_last, BitVec.msb_eq_decide]

theorem packF32_toNat {bits : Nat} (h : bits < 2 ^ 31) (sign : Bool) :
    (packF32 sign bits).toNat = (if sign then 2 ^ 31 else 0) + bits := by
  rw [packF32, BitVec.toNat_ofNat]
  split_ifs <;> omega

theorem signOf_packF32 {bits : Nat} (h : bits < 2 ^ 31) (sign : Bool) :
    signOf (packF32 sign bits) = sign := by
  rw [signOf_eq, packF32_toNat h]
  cases sign
  · exact decide_eq_false (by rw [if_neg Bool.false_ne_true]; omega)
  · exact decide_eq_true (by rw [if_pos rfl]; omega)

theorem expOf_packF32 {bits : Nat} (h : bits < 2 ^ 31) (sign : Bool) :
    expOf (packF32 sign bits) = bits / 2 ^ 23 := by
  rw [expOf_eq, packF32_toNat h]
  split <;> omega

theorem fracOf_packF32 {bits : Nat} (h : bits < 2 ^ 31) (sign : Bool) :
    fracOf (packF32 sign bits) = bits % 2 ^ 23 := by
  rw [fracOf_eq, packF32_toNat h]
  split <;> omega

theorem isFinite_packF32 {bits : Nat} (h : bits < 0x7F800000) (sign : Bool) :
    isFinite (packF32 sign bits) = true := by
  rw [isFinite_iff, expOf_packF32 (by omega)]
  omega

theorem getLsbD_zero_packF32 {bits : Nat} (h : bits < 2 ^ 31) (sign : Bool) :
    (packF32 sign bits).getLsbD 0 = decide (bits % 2 = 1) := by
  rw [← BitVec.testBit_toNat, packF32_toNat h, Nat.testBit_zero]
  exact decide_eq_decide.2 (by split <;> omega)

/-! ## Significand and spacing -/

/-- The bits `s * 2 ^ 23 + k` stand for `k` spacings of `2 ^ s` units. The exponent field of a normal
value is `s + 1`, of a subnormal one 0; `k = 2 ^ 24` carries into the next exponent. -/
structure IsSignificand (s k : Nat) : Prop where
  le : k ≤ 2 ^ 24
  normal : s = 0 ∨ 2 ^ 23 ≤ k
  inRange : s * 2 ^ 23 + k < 0x7F800000

theorem unitsOf_packF32 {s k : Nat} (h : IsSignificand s k) (sign : Bool) :
    unitsOf (packF32 sign (s * 2 ^ 23 + k)) = k * 2 ^ s := by
  obtain ⟨hle, hnormal, hrange⟩ := h
  rw [unitsOf, expOf_packF32 (by omega), fracOf_packF32 (by omega)]
  rcases Nat.lt_or_ge k (2 ^ 23) with hsub | hge
  · obtain rfl : s = 0 := by omega
    rw [if_pos (by omega), pow_zero]
    omega
  · rw [if_neg (by omega)]
    rcases hle.lt_or_eq with hlt | rfl
    · rw [show (s * 2 ^ 23 + k) / 2 ^ 23 - 1 = s by omega,
        show 2 ^ 23 + (s * 2 ^ 23 + k) % 2 ^ 23 = k by omega]
    · rw [show (s * 2 ^ 23 + 2 ^ 24) / 2 ^ 23 - 1 = s + 1 by omega,
        show 2 ^ 23 + (s * 2 ^ 23 + 2 ^ 24) % 2 ^ 23 = 2 ^ 23 by omega, pow_succ' 2 s]
      ring

theorem exists_significand {x : F32} (h : isFinite x = true) :
    ∃ s k, IsSignificand s k ∧ k < 2 ^ 24 ∧ x = packF32 (signOf x) (s * 2 ^ 23 + k) := by
  have hexp := isFinite_iff.1 h
  rw [expOf_eq] at hexp
  have hx := x.isLt
  have hpack {bits : Nat} (hbits : bits = x.toNat % 2 ^ 31) : x = packF32 (signOf x) bits := by
    apply BitVec.eq_of_toNat_eq
    rw [packF32_toNat (by omega), signOf_eq]
    simp only [decide_eq_true_eq]
    split <;> omega
  by_cases hzero : x.toNat / 2 ^ 23 % 2 ^ 8 = 0
  · exact ⟨0, x.toNat % 2 ^ 23, ⟨by omega, .inl rfl, by omega⟩, by omega, hpack (by omega)⟩
  · exact ⟨x.toNat / 2 ^ 23 % 2 ^ 8 - 1, 2 ^ 23 + x.toNat % 2 ^ 23,
      ⟨by omega, .inr (by omega), by omega⟩, by omega, hpack (by omega)⟩

/-! ## Rounding to whole numbers -/

/-- The rounded number is at most half a unit away, and even where it is just as far. -/
theorem roundHalfEven_error (n : Nat) {d : Nat} (hd : 0 < d) :
    2 * |(roundHalfEven n d : Int) * d - n| ≤ d ∧
      (2 * |(roundHalfEven n d : Int) * d - n| = d → roundHalfEven n d % 2 = 0) := by
  have hdiv : (n : Int) = (n / d : Nat) * d + (n % d : Nat) := by
    exact_mod_cast (Nat.div_add_mod' n d).symm
  have hmod := Nat.mod_lt n hd
  have hdown : ((n / d : Nat) : Int) * d - n = -(n % d : Nat) := by linarith
  have hup : ((n / d + 1 : Nat) : Int) * d - n = d - (n % d : Nat) := by push_cast at *; linarith
  simp only [roundHalfEven]
  split_ifs
  · rw [hdown, abs_neg, Nat.abs_cast]
    omega
  · rw [hup, abs_of_pos (by omega)]
    omega
  · rw [hdown, abs_neg, Nat.abs_cast]
    omega
  · rw [hup, abs_of_pos (by omega)]
    omega

/-- Of all whole numbers the rounded one is nearest, and it is even where another is as near. -/
theorem roundHalfEven_nearest (n : Nat) {d : Nat} (hd : 0 < d) (j : Int) :
    |(roundHalfEven n d : Int) * d - n| ≤ |j * d - n| ∧
      (|(roundHalfEven n d : Int) * d - n| = |j * d - n| → j ≠ roundHalfEven n d →
        roundHalfEven n d % 2 = 0) := by
  obtain ⟨herr, heven⟩ := roundHalfEven_error n hd
  by_cases hj : j = roundHalfEven n d
  · rw [hj]
    exact ⟨le_refl _, fun _ hne => absurd rfl hne⟩
  · have hapart : (d : Int) ≤ |(j - roundHalfEven n d) * d| :=
      Int.le_of_dvd (abs_pos.2 (mul_ne_zero (sub_ne_zero.2 hj) (by omega)))
        ((dvd_abs _ _).2 (dvd_mul_left _ _))
    have htriangle := abs_sub (j * d - n) ((roundHalfEven n d : Int) * d - n)
    rw [sub_sub_sub_cancel_right, ← sub_mul] at htriangle
    exact ⟨by omega, fun heq _ => heven (by omega)⟩

theorem roundHalfEven_le {n d m : Nat} (hd : 0 < d) (h : n ≤ m * d) : roundHalfEven n d ≤ m := by
  by_contra! hlt
  have hmul := Nat.mul_le_mul_right d hlt
  have herr := (roundHalfEven_error n hd).1
  have hle := le_abs_self ((roundHalfEven n d : Int) * d - n)
  rw [Nat.succ_mul] at hmul
  zify at *
  linarith

theorem le_roundHalfEven {n d m : Nat} (hd : 0 < d) (h : m * d ≤ n) : m ≤ roundHalfEven n d := by
  by_contra! hlt
  have hmul := Nat.mul_le_mul_right d hlt
  have herr := (roundHalfEven_error n hd).1
  have hle := neg_le_abs ((roundHalfEven n d : Int) * d - n)
  rw [Nat.succ_mul] at hmul
  zify at *
  linarith

theorem roundHalfEven_mul (j : Nat) {d : Nat} (hd : 0 < d) : roundHalfEven (j * d) d = j :=
  le_antisymm (roundHalfEven_le hd (le_refl _)) (le_roundHalfEven hd (le_refl _))

/-! ## Rounding to a binary32 value -/

/-- The shift of `roundBits`: the spacing around `n / d` units is `2 ^ shift` units. -/
def shiftOf (n d : Nat) : Nat := (n / d).log2 - 23

theorem lt_spacings_shiftOf (n : Nat) {d : Nat} (hd : 0 < d) :
    n < 2 ^ 24 * (d * 2 ^ shiftOf n d) := by
  have hlog : n / d < 2 ^ ((n / d).log2 + 1) := Nat.lt_log2_self
  have hpow : 2 ^ ((n / d).log2 + 1) ≤ 2 ^ (24 + shiftOf n d) :=
    Nat.pow_le_pow_right (by decide) (by rw [shiftOf]; omega)
  rw [Nat.div_lt_iff_lt_mul hd] at hlog
  calc n < 2 ^ ((n / d).log2 + 1) * d := hlog
    _ ≤ 2 ^ (24 + shiftOf n d) * d := Nat.mul_le_mul_right _ hpow
    _ = 2 ^ 24 * (d * 2 ^ shiftOf n d) := by rw [pow_add]; ring

theorem spacings_shiftOf_le {n d : Nat} (hd : 0 < d) (h : shiftOf n d ≠ 0) :
    2 ^ 23 * (d * 2 ^ shiftOf n d) ≤ n := by
  have hlog : 2 ^ (n / d).log2 ≤ n / d := by
    refine Nat.log2_self_le fun hzero => h ?_
    rw [shiftOf, hzero]
    rfl
  rw [Nat.le_div_iff_mul_le hd] at hlog
  calc 2 ^ 23 * (d * 2 ^ shiftOf n d) = 2 ^ (23 + shiftOf n d) * d := by rw [pow_add]; ring
    _ = 2 ^ (n / d).log2 * d := by rw [shiftOf] at *; congr 2; omega
    _ ≤ n := hlog

/-- A number below `2 ^ 24` spacings of `2 ^ s` units is shifted by no more than `s`. -/
theorem shiftOf_le {n d s : Nat} (hd : 0 < d) (h : n < 2 ^ 24 * (d * 2 ^ s)) : shiftOf n d ≤ s := by
  by_contra! hlt
  have hle := spacings_shiftOf_le hd (by omega : shiftOf n d ≠ 0)
  have hpow : 2 ^ (s + 1) ≤ 2 ^ shiftOf n d := Nat.pow_le_pow_right (by decide) hlt
  have hnext : 2 ^ 23 * (d * 2 ^ (s + 1)) ≤ n := le_trans (by gcongr) hle
  rw [pow_succ 2 s] at hnext
  linarith

/-- The rounded significand. -/
def significandOf (n d : Nat) : Nat := roundHalfEven n (d * 2 ^ shiftOf n d)

/-- Below or at the largest finite value, the rounded significand is one of a finite value. -/
theorem isSignificand_of_le {n d : Nat} (hd : 0 < d) (h : n ≤ (2 ^ 24 - 1) * (d * 2 ^ 253)) :
    IsSignificand (shiftOf n d) (significandOf n d) := by
  have hD (s : Nat) : 0 < d * 2 ^ s := Nat.mul_pos hd (Nat.two_pow_pos s)
  have hle : significandOf n d ≤ 2 ^ 24 := roundHalfEven_le (hD _) (lt_spacings_shiftOf n hd).le
  have hshift : shiftOf n d ≤ 253 :=
    shiftOf_le hd (h.trans_lt (Nat.mul_lt_mul_of_pos_right (by decide) (hD 253)))
  have hnormal (hs : shiftOf n d ≠ 0) : 2 ^ 23 ≤ significandOf n d :=
    le_roundHalfEven (hD _) (spacings_shiftOf_le hd hs)
  refine ⟨hle, or_iff_not_imp_left.2 hnormal, ?_⟩
  rcases hshift.lt_or_eq with hlt | htop
  · omega
  · have htopLe : significandOf n d ≤ 2 ^ 24 - 1 := roundHalfEven_le (hD _) (by rwa [htop])
    omega

theorem roundBits_eq {n d : Nat} (h : IsSignificand (shiftOf n d) (significandOf n d)) :
    roundBits n d = shiftOf n d * 2 ^ 23 + significandOf n d := if_pos h.inRange

/-- A representable number of units is not rounded. -/
theorem roundBits_of_significand {s k : Nat} (h : IsSignificand s k) (hk : k < 2 ^ 24) :
    roundBits (k * 2 ^ s) 1 = s * 2 ^ 23 + k := by
  have hpos := Nat.two_pow_pos s
  have hshift : shiftOf (k * 2 ^ s) 1 = s := by
    refine le_antisymm (shiftOf_le one_pos (by rw [one_mul]; gcongr)) ?_
    rcases h.normal with rfl | hnormal
    · exact Nat.zero_le _
    · by_contra! hlt
      have hpow : 2 ^ (shiftOf (k * 2 ^ s) 1 + 1) ≤ 2 ^ s := Nat.pow_le_pow_right (by decide) hlt
      have hmul := Nat.mul_le_mul hnormal hpow
      have hupper := lt_spacings_shiftOf (k * 2 ^ s) one_pos
      rw [pow_succ 2 (shiftOf _ _)] at hmul
      linarith
  have hsig : significandOf (k * 2 ^ s) 1 = k := by
    rw [significandOf, hshift, one_mul, roundHalfEven_mul k hpos]
  rw [roundBits_eq (by rwa [hshift, hsig]), hshift, hsig]

@[simp] theorem roundBits_zero (d : Nat) : roundBits 0 d = 0 := by
  simp [roundBits, roundHalfEven]

/-- A finite value is the packed form of its own units. -/
theorem packF32_roundBits_unitsOf {x : F32} (h : isFinite x = true) :
    packF32 (signOf x) (roundBits (unitsOf x) 1) = x := by
  obtain ⟨s, k, hsk, hk, hx⟩ := exists_significand h
  have hunits : unitsOf x = k * 2 ^ s := by rw [hx, unitsOf_packF32 hsk]
  rw [hunits, roundBits_of_significand hsk hk, ← hx]

/-! ## Values and their sign -/

/-- `a`, negated when the sign bit is set. -/
def withSign {α : Type} [Neg α] (sign : Bool) (a : α) : α := if sign then -a else a

theorem valueOf_eq (x : F32) : valueOf x = withSign (signOf x) ((unitsOf x : Rat) / one) := by
  rw [valueOf, signedUnits, withSign]
  cases signOf x <;> simp [neg_div]

theorem withSign_mul (s t : Bool) (a b : Rat) :
    withSign s a * withSign t b = withSign (s != t) (a * b) := by
  cases s <;> cases t <;> simp [withSign]

theorem withSign_div (s t : Bool) (a b : Rat) :
    withSign s a / withSign t b = withSign (s != t) (a / b) := by
  cases s <;> cases t <;> simp [withSign, neg_div, div_neg]

theorem withSign_sub (s : Bool) (a b : Rat) :
    withSign s a - withSign s b = withSign s (a - b) := by
  cases s
  · rfl
  · exact (neg_sub' a b).symm

theorem withSign_withSign (s : Bool) (a : Int) : withSign s (withSign s a) = a := by
  cases s <;> simp [withSign]

theorem abs_withSign (s : Bool) (a : Rat) : |withSign s a| = |a| := by
  cases s <;> simp [withSign]

/-! ## The rounded value is nearest (R85) -/

/-- The whole numbers of units a value can have around `n / d`: multiples of the spacing there, or
numbers no larger than the smallest one with that spacing. -/
def onGridOrBelow (n d : Nat) (u : Int) : Prop :=
  (2 ^ shiftOf n d : Int) ∣ u ∨ shiftOf n d ≠ 0 ∧ u ≤ 2 ^ 23 * 2 ^ shiftOf n d

theorem onGridOrBelow_signedUnits (n d : Nat) (sign : Bool) (y : F32) :
    onGridOrBelow n d (withSign sign (signedUnits y)) := by
  rcases Nat.lt_or_ge (expOf y) (shiftOf n d + 1) with hlt | hge
  · have hunits := unitsOf_le_of_expOf_lt hlt
    have hle : withSign sign (signedUnits y) ≤ unitsOf y := by
      rw [← abs_signedUnits]
      cases sign
      · exact le_abs_self _
      · exact neg_le_abs _
    by_cases hs : shiftOf n d = 0
    · exact .inl (by simp [hs])
    · exact .inr ⟨hs, hle.trans (by exact_mod_cast hunits)⟩
  · have hdvd := spacingUnits_dvd_signedUnits hge
    rw [spacingUnits, Nat.add_sub_cancel, Nat.cast_pow, Nat.cast_ofNat] at hdvd
    cases sign
    · exact .inl hdvd
    · exact .inl (dvd_neg.2 hdvd)

/-- Some multiple of the spacing is as near to `n / d` as `u` is, and nearer unless it is `u`. -/
theorem exists_multiple_as_near {n d : Nat} (hd : 0 < d) {u : Int} (hu : onGridOrBelow n d u) :
    ∃ j : Int, |j * (d * 2 ^ shiftOf n d : Nat) - n| ≤ |u * d - n| ∧
      (|j * (d * 2 ^ shiftOf n d : Nat) - n| = |u * d - n| → u = j * 2 ^ shiftOf n d) := by
  have hgrid (j : Int) : j * (d * 2 ^ shiftOf n d : Nat) = j * 2 ^ shiftOf n d * d := by
    push_cast; ring
  simp only [hgrid]
  rcases hu with ⟨j, rfl⟩ | ⟨hs, hle⟩
  · exact ⟨j, by rw [mul_comm j], fun _ => mul_comm _ _⟩
  · have hlow : (2 ^ 23 * 2 ^ shiftOf n d * d : Int) ≤ n := by
      rw [← hgrid]
      exact_mod_cast spacings_shiftOf_le hd hs
    have hmul := mul_le_mul_of_nonneg_right hle (Int.natCast_nonneg d)
    refine ⟨2 ^ 23, ?_⟩
    rw [abs_of_nonpos (sub_nonpos.2 hlow), abs_of_nonpos (sub_nonpos.2 (hmul.trans hlow))]
    refine ⟨by linarith, fun heq => ?_⟩
    have hsame : u * d = 2 ^ 23 * 2 ^ shiftOf n d * d := by linarith
    exact mul_right_cancel₀ (by omega) hsame

/-- No number of units a value can have is nearer to `n / d` than the rounded one, and where one is as
near, the rounded significand is even. -/
theorem nearest_in_units {n d : Nat} (hd : 0 < d) {u : Int} (hu : onGridOrBelow n d u) :
    |(significandOf n d : Int) * (d * 2 ^ shiftOf n d : Nat) - n| ≤ |u * d - n| ∧
      (|(significandOf n d : Int) * (d * 2 ^ shiftOf n d : Nat) - n| = |u * d - n| →
        u ≠ significandOf n d * 2 ^ shiftOf n d → significandOf n d % 2 = 0) := by
  obtain ⟨j, hj, hju⟩ := exists_multiple_as_near hd hu
  obtain ⟨hle, heven⟩ := roundHalfEven_nearest n (Nat.mul_pos hd (Nat.two_pow_pos (shiftOf n d))) j
  refine ⟨hle.trans hj, fun heq hne => heven (le_antisymm hle (hj.trans_eq heq.symm)) fun h => ?_⟩
  apply hne
  rw [hju (le_antisymm hj (heq.symm.trans_le hle)), h, significandOf]

/-- The distance of a value from `n / d` units, in units. -/
theorem abs_valueOf_sub (x : F32) (sign : Bool) (n : Nat) {d : Nat} (hd : 0 < d) :
    |valueOf x - withSign sign ((n : Rat) / d / one)|
      = (|withSign sign (signedUnits x) * d - n| : Int) / (d * one : Rat) := by
  have hdRat : (0 : Rat) < d := by exact_mod_cast hd
  have hone := cast_one_units_pos
  have hvalue : valueOf x = withSign sign (((withSign sign (signedUnits x) : Int) : Rat) / one) := by
    cases sign
    · rfl
    · simp [valueOf, withSign, neg_div]
  have hscale (u : Int) : (u : Rat) / one - n / d / one = ((u * d - n : Int) : Rat) / (d * one) := by
    push_cast
    field_simp
  rw [hvalue, withSign_sub, abs_withSign, hscale, abs_div, abs_of_pos (mul_pos hdRat hone),
    Int.cast_abs]

theorem maxFinite_units {n d : Nat} (hd : 0 < d) (h : (n : Rat) / d / one ≤ maxFinite) :
    n ≤ (2 ^ 24 - 1) * (d * 2 ^ 253) := by
  have hdRat : (0 : Rat) < d := by exact_mod_cast hd
  rw [div_div, div_le_iff₀ (mul_pos hdRat cast_one_units_pos)] at h
  have hcast : (n : Rat) ≤ ((2 ^ 24 - 1) * (d * 2 ^ 253) : Nat) := by
    refine h.trans_eq ?_
    rw [maxFinite, one]
    push_cast
    ring
  exact_mod_cast hcast

theorem signedUnits_packF32 {s k : Nat} (h : IsSignificand s k) (sign : Bool) :
    signedUnits (packF32 sign (s * 2 ^ 23 + k)) = withSign sign ((k * 2 ^ s : Nat) : Int) := by
  rw [signedUnits, signOf_packF32 (by have := h.inRange; omega), unitsOf_packF32 h, withSign]

/-- The signed units of a rounded value, as a multiple of the shifted spacing. -/
theorem signedUnits_roundBits (sign : Bool) {n d : Nat}
    (h : IsSignificand (shiftOf n d) (significandOf n d)) :
    withSign sign (signedUnits (packF32 sign (roundBits n d)))
      = significandOf n d * 2 ^ shiftOf n d := by
  rw [roundBits_eq h, signedUnits_packF32 h, withSign_withSign]
  push_cast
  rfl

/-- What rounding moves, in units. -/
theorem abs_valueOf_roundBits_sub (sign : Bool) {n d : Nat} (hd : 0 < d)
    (h : IsSignificand (shiftOf n d) (significandOf n d)) :
    |valueOf (packF32 sign (roundBits n d)) - withSign sign ((n : Rat) / d / one)|
      = (|significandOf n d * (d * 2 ^ shiftOf n d : Nat) - n| : Int) / (d * one : Rat) := by
  have hscaled : (significandOf n d * 2 ^ shiftOf n d * d : Int)
      = significandOf n d * (d * 2 ^ shiftOf n d : Nat) := by
    push_cast
    ring
  rw [abs_valueOf_sub _ sign n hd, signedUnits_roundBits sign h, hscaled]

/-- Every operation packs the rounding of its exact result, so each of them rounds correctly (R85). -/
theorem nearestEven_packF32_roundBits (sign : Bool) {n d : Nat} (hd : 0 < d)
    (h : (n : Rat) / d / one ≤ maxFinite) :
    nearestEven (withSign sign ((n : Rat) / d / one)) (packF32 sign (roundBits n d)) := by
  have hsk := isSignificand_of_le hd (maxFinite_units hd h)
  have hbits := roundBits_eq hsk
  have hrange := hsk.inRange
  have hpos : (0 : Rat) < d * one := mul_pos (by exact_mod_cast hd) cast_one_units_pos
  refine ⟨isFinite_packF32 (by omega) _, fun y _ => ?_⟩
  obtain ⟨hle, htie⟩ := nearest_in_units hd (onGridOrBelow_signedUnits n d sign y)
  rw [abs_valueOf_roundBits_sub sign hd hsk, abs_valueOf_sub y sign n hd]
  refine ⟨by gcongr, fun heq hne => ?_⟩
  rw [div_left_inj' hpos.ne', Int.cast_inj] at heq
  have heven := htie heq fun hsame => hne ?_
  · rw [getLsbD_zero_packF32 (by omega)]
    exact decide_eq_false (by omega)
  · have hunits := congrArg (withSign sign) (hsame.trans (signedUnits_roundBits sign hsk).symm)
    rw [withSign_withSign, withSign_withSign] at hunits
    rw [valueOf, valueOf, hunits]

/-! ## The operations on finite operands (R85) -/

theorem sumF32_of_finite {op : FOp} {a b : F32} (ha : isFinite a = true) (hb : isFinite b = true) :
    sumF32 op a b =
      if signedUnits a + signedUnits b = 0 then packF32 (signOf a && signOf b) 0
      else packF32 (signedUnits a + signedUnits b < 0)
        (roundBits (signedUnits a + signedUnits b).natAbs 1) := by
  simp [sumF32, isNaN_of_isFinite, isInf_of_isFinite, ha, hb]

theorem fmul_of_finite {a b : F32} (ha : isFinite a = true) (hb : isFinite b = true) :
    fmul a b = packF32 (signOf a != signOf b) (roundBits (unitsOf a * unitsOf b) one) := by
  simp [fmul, isNaN_of_isFinite, isInf_of_isFinite, ha, hb]

theorem fdiv_of_finite {a b : F32} (ha : isFinite a = true) (hb : isFinite b = true)
    (h : unitsOf b ≠ 0) :
    fdiv a b = packF32 (signOf a != signOf b) (roundBits (unitsOf a * one) (unitsOf b)) := by
  simp [fdiv, isNaN_of_isFinite, isInf_of_isFinite, ha, hb, h]

theorem expOf_negF32 (x : F32) : expOf (negF32 x) = expOf x := by
  rw [expOf, expOf, negF32, BitVec.extractLsb'_xor]
  exact congrArg BitVec.toNat (BitVec.xor_zero)

theorem fracOf_negF32 (x : F32) : fracOf (negF32 x) = fracOf x := by
  rw [fracOf, fracOf, negF32, BitVec.extractLsb'_xor]
  exact congrArg BitVec.toNat (BitVec.xor_zero)

theorem signOf_negF32 (x : F32) : signOf (negF32 x) = !signOf x := by
  rw [signOf, signOf, negF32, BitVec.getLsbD_xor]
  exact Bool.xor_true _

theorem isFinite_negF32 {x : F32} (h : isFinite x = true) : isFinite (negF32 x) = true := by
  rwa [isFinite, expOf_negF32]

theorem signedUnits_negF32 (x : F32) : signedUnits (negF32 x) = -signedUnits x := by
  rw [signedUnits, signedUnits, signOf_negF32, unitsOf, expOf_negF32, fracOf_negF32, ← unitsOf]
  cases signOf x <;> simp

theorem valueOf_negF32 (x : F32) : valueOf (negF32 x) = -valueOf x := by
  rw [valueOf, valueOf, signedUnits_negF32, Int.cast_neg, neg_div]

@[simp] theorem unitsOf_plusZero : unitsOf plusZero = 0 := by decide

@[simp] theorem valueOf_plusZero : valueOf plusZero = 0 := by
  have hunits : signedUnits plusZero = 0 := by decide
  rw [valueOf, hunits, Int.cast_zero, zero_div]

/-! ## Each operation rounds correctly -/

theorem nearestEven_sumF32 {op : FOp} {a b : F32} (ha : isFinite a = true) (hb : isFinite b = true)
    (h : |valueOf a + valueOf b| ≤ maxFinite) :
    nearestEven (valueOf a + valueOf b) (sumF32 op a b) := by
  rw [sumF32_of_finite ha hb]
  have hsum : valueOf a + valueOf b = ((signedUnits a + signedUnits b : Int) : Rat) / one := by
    rw [valueOf, valueOf, ← add_div, Int.cast_add]
  rw [hsum] at h ⊢
  generalize signedUnits a + signedUnits b = s at h ⊢
  have hexact : (s : Rat) / one = withSign (decide (s < 0)) ((s.natAbs : Rat) / (1 : Nat) / one) := by
    rw [Nat.cast_one, div_one, Nat.cast_natAbs, withSign]
    by_cases hs : s < 0
    · simp [hs, abs_of_neg, neg_div]
    · simp [hs, abs_of_nonneg (not_lt.1 hs)]
  by_cases hs : s = 0
  · rw [if_pos hs, hs, Int.cast_zero, zero_div]
    have hzero := nearestEven_packF32_roundBits (signOf a && signOf b) (n := 0) one_pos
      (by norm_num [maxFinite])
    simpa [withSign] using hzero
  · rw [if_neg hs]
    rw [hexact] at h ⊢
    rw [abs_withSign] at h
    exact nearestEven_packF32_roundBits _ one_pos ((le_abs_self _).trans h)

theorem nearestEven_fadd {a b : F32} (ha : isFinite a = true) (hb : isFinite b = true)
    (h : |valueOf a + valueOf b| ≤ maxFinite) : nearestEven (valueOf a + valueOf b) (fadd a b) := by
  rw [fadd]
  split
  case isTrue hzero =>
    exact nearestEven_of_exact ha (by rw [hzero, valueOf_plusZero, add_zero])
  case isFalse => exact nearestEven_sumF32 ha hb h

theorem nearestEven_fsub {a b : F32} (ha : isFinite a = true) (hb : isFinite b = true)
    (h : |valueOf a - valueOf b| ≤ maxFinite) : nearestEven (valueOf a - valueOf b) (fsub a b) := by
  rw [sub_eq_add_neg, ← valueOf_negF32] at h ⊢
  exact nearestEven_sumF32 ha (isFinite_negF32 hb) h

theorem nearestEven_fmul {a b : F32} (ha : isFinite a = true) (hb : isFinite b = true)
    (h : |valueOf a * valueOf b| ≤ maxFinite) : nearestEven (valueOf a * valueOf b) (fmul a b) := by
  have hexact : valueOf a * valueOf b
      = withSign (signOf a != signOf b) (((unitsOf a * unitsOf b : Nat) : Rat) / one / one) := by
    rw [valueOf_eq, valueOf_eq, withSign_mul]
    push_cast
    ring_nf
  rw [hexact] at h ⊢
  rw [abs_withSign] at h
  rw [fmul_of_finite ha hb]
  exact nearestEven_packF32_roundBits _ (Nat.two_pow_pos 149) ((le_abs_self _).trans h)

theorem unitsOf_ne_zero_iff {x : F32} : unitsOf x ≠ 0 ↔ valueOf x ≠ 0 := by
  rw [valueOf, div_ne_zero_iff, Int.cast_ne_zero, and_iff_left cast_one_units_pos.ne',
    ← abs_ne_zero, abs_signedUnits, Nat.cast_ne_zero]

theorem nearestEven_fdiv {a b : F32} (ha : isFinite a = true) (hb : isFinite b = true)
    (hne : valueOf b ≠ 0) (h : |valueOf a / valueOf b| ≤ maxFinite) :
    nearestEven (valueOf a / valueOf b) (fdiv a b) := by
  have hunits := unitsOf_ne_zero_iff.2 hne
  have hexact : valueOf a / valueOf b
      = withSign (signOf a != signOf b) (((unitsOf a * one : Nat) : Rat) / unitsOf b / one) := by
    rw [valueOf_eq, valueOf_eq, withSign_div]
    have := cast_one_units_pos.ne'
    push_cast
    field_simp
  rw [hexact] at h ⊢
  rw [abs_withSign] at h
  rw [fdiv_of_finite ha hb hunits]
  exact nearestEven_packF32_roundBits _ (Nat.pos_of_ne_zero hunits) ((le_abs_self _).trans h)

/-- Settles O24: each operation packs the rounding of its exact result. -/
theorem binaryOperationsRoundCorrectly : Obligations.BinaryOperationsRoundCorrectly :=
  fun _ _ ha hb => ⟨nearestEven_fadd ha hb, nearestEven_fsub ha hb, nearestEven_fmul ha hb,
    nearestEven_fdiv ha hb⟩

/-! ## Ordinary values -/

/-- Finite with sign bit 0: what R86 asks of a velocity, and what every operation of R84 then gives. -/
structure Ordinary (x : F32) : Prop where
  finite : isFinite x = true
  sign : signOf x = false

theorem Ordinary.valueOf_nonneg {x : F32} (h : Ordinary x) : 0 ≤ valueOf x := by
  rw [valueOf_eq, h.sign]
  exact div_nonneg (Nat.cast_nonneg _) cast_one_units_pos.le

theorem ordinary_packF32 {bits : Nat} (h : bits < 0x7F800000) : Ordinary (packF32 false bits) :=
  ⟨isFinite_packF32 h _, signOf_packF32 (by omega) _⟩

theorem ordinary_plusZero : Ordinary plusZero := ordinary_packF32 (by decide)

theorem Ordinary.packF32_roundBits {x : F32} (h : Ordinary x) :
    packF32 false (roundBits (unitsOf x) 1) = x := by
  rw [← h.sign, packF32_roundBits_unitsOf h.finite]

/-- An ordinary value has one bit pattern. -/
theorem Ordinary.eq_of_valueOf_eq {x y : F32} (hx : Ordinary x) (hy : Ordinary y)
    (h : valueOf x = valueOf y) : x = y := by
  rw [valueOf_eq, valueOf_eq, hx.sign, hy.sign] at h
  have hunits : unitsOf x = unitsOf y := by
    exact_mod_cast (div_left_inj' cast_one_units_pos.ne').1 h
  rw [← hx.packF32_roundBits, hunits, hy.packF32_roundBits]

/-! ## Identities of the operations (R85) -/

/-- A number below `2 ^ 24` has at most 24 bits, so its conversion is not rounded. -/
theorem i2f_of_lt {n : Nat} (h : n < 2 ^ 24) : Ordinary (i2f n) ∧ valueOf (i2f n) = n := by
  have hsk : IsSignificand (shiftOf (n * one) 1) (significandOf (n * one) 1) :=
    isSignificand_of_le one_pos (by rw [one]; omega)
  have hshift : shiftOf (n * one) 1 ≤ 149 :=
    shiftOf_le one_pos (by rw [one_mul]; exact Nat.mul_lt_mul_of_pos_right h (Nat.two_pow_pos 149))
  have hdvd : n * one = n * 2 ^ (149 - shiftOf (n * one) 1) * (1 * 2 ^ shiftOf (n * one) 1) := by
    rw [one_mul, Nat.mul_assoc, ← pow_add, Nat.sub_add_cancel hshift, one]
  have hround : significandOf (n * one) 1 * (1 * 2 ^ shiftOf (n * one) 1) = n * one := by
    rw [significandOf]
    generalize shiftOf (n * one) 1 = s at *
    rw [hdvd, roundHalfEven_mul _ (by positivity)]
  have herror := abs_valueOf_roundBits_sub false one_pos hsk
  rw [← Nat.cast_mul, hround, sub_self, abs_zero, Int.cast_zero, zero_div, abs_eq_zero, sub_eq_zero]
    at herror
  rw [i2f]
  refine ⟨roundBits_eq hsk ▸ ordinary_packF32 hsk.inRange, herror.trans ?_⟩
  rw [withSign, if_neg Bool.false_ne_true, Nat.cast_one, div_one, Nat.cast_mul,
    mul_div_cancel_right₀ _ cast_one_units_pos.ne']

@[simp] theorem i2f_zero : i2f 0 = plusZero := by
  rw [i2f, zero_mul, roundBits_zero]
  rfl

theorem fadd_plusZero (x : F32) : fadd x plusZero = x := if_pos rfl

/-- A zero factor leaves a zero with the sign of the product. -/
theorem plusZero_fmul {x : F32} (h : isFinite x = true) :
    fmul plusZero x = packF32 (signOf x) 0 := by
  rw [fmul_of_finite ordinary_plusZero.finite h, ordinary_plusZero.sign, unitsOf_plusZero, zero_mul,
    roundBits_zero, Bool.false_bne]

theorem fmul_plusZero {x : F32} (h : isFinite x = true) :
    fmul x plusZero = packF32 (signOf x) 0 := by
  rw [fmul_of_finite h ordinary_plusZero.finite, ordinary_plusZero.sign, unitsOf_plusZero, mul_zero,
    roundBits_zero, Bool.bne_false]

/-- Settles O25: a conversion below `2 ^ 24` needs no rounding, and the identities hold bit for bit. -/
theorem binaryOperationIdentities : Obligations.BinaryOperationIdentities := by
  refine ⟨fun n h => ?_, fadd_plusZero, fun x hx hsign => ?_⟩
  · obtain ⟨⟨hfinite, hsign⟩, hval⟩ := i2f_of_lt h
    exact ⟨hfinite, hsign, hval⟩
  · have hzero : packF32 (signOf x) 0 = 0x00000000 := by rw [hsign]; rfl
    exact ⟨(plusZero_fmul hx).trans hzero, (fmul_plusZero hx).trans hzero⟩

/-! ## The segment search (R80) -/

theorem rawAt_lt_rawAt {t : CalTable} {i j : Nat} (hij : i < j) (hj : j < t.size) :
    (rawAt t i).toNat < (rawAt t j).toNat := by
  rw [rawAt, rawAt, romRead_of_lt hj, romRead_of_lt (hij.trans hj)]
  exact List.pairwise_iff_getElem.1 (thresholds_rise t) i j (hij.trans hj) hj hij

theorem rawAt_le_rawAt {t : CalTable} {i j : Nat} (hij : i ≤ j) (hj : j < t.size) :
    (rawAt t i).toNat ≤ (rawAt t j).toNat := by
  rcases hij.eq_or_lt with rfl | hlt
  · exact le_refl _
  · exact (rawAt_lt_rawAt hlt hj).le

theorem seg_eq_none_iff {t : CalTable} {m : Raw} : seg t m = none ↔ m.toNat < (rawAt t 0).toNat := by
  have hsize : 0 < t.size := by have := two_le_length t; rw [CalTable.size]; omega
  rw [seg, segBelow_none_iff]
  exact ⟨fun h => h 0 hsize, fun h j hj => h.trans_le (rawAt_le_rawAt (Nat.zero_le j) hj)⟩

theorem seg_eq_some_iff {t : CalTable} {m : Raw} {i : Nat} :
    seg t m = some i ↔ i < t.size ∧ (rawAt t i).toNat ≤ m.toNat ∧
      (i + 1 = t.size ∨ m.toNat < (rawAt t (i + 1)).toNat) := by
  constructor
  · intro h
    obtain ⟨hi, hle, habove⟩ := segBelow_some h
    refine ⟨hi, hle, or_iff_not_imp_left.2 fun hne => habove _ (Nat.lt_succ_self i) (by omega)⟩
  · rintro ⟨hi, hle, hnext⟩
    cases hseg : seg t m with
    | none =>
      have hlow := rawAt_le_rawAt (Nat.zero_le i) hi
      have := seg_eq_none_iff.1 hseg
      omega
    | some j =>
      obtain ⟨hj, hjle, habove⟩ := segBelow_some hseg
      rcases lt_trichotomy i j with hlt | rfl | hgt
      · have hstep := rawAt_le_rawAt (Nat.succ_le_of_lt hlt) hj
        rw [Nat.succ_eq_add_one] at hstep
        omega
      · rfl
      · have := habove i hgt hi
        omega

/-- Settles O16: the thresholds rise, so the highest one not above `m` is the one whose successor is. -/
theorem segmentSearchFindsSegment : Obligations.SegmentSearchFindsSegment :=
  fun _ _ => ⟨seg_eq_none_iff, fun _ => seg_eq_some_iff⟩

/-! ## The clamps and the formula (R81, R82, R84) -/

/-- `m` lies in segment `i`, which is not the last point. -/
def inSegment (t : CalTable) (i : Nat) (m : Raw) : Prop :=
  i + 1 < t.size ∧ (rawAt t i).toNat ≤ m.toNat ∧ m.toNat < (rawAt t (i + 1)).toNat

theorem interp_of_below {t : CalTable} {m : Raw} (h : m.toNat < (rawAt t 0).toNat) :
    interp t m = plusZero := by
  rw [interp, seg_eq_none_iff.2 h]

theorem interp_of_last {t : CalTable} {m : Raw} {i : Nat} (hi : i + 1 = t.size)
    (h : (rawAt t i).toNat ≤ m.toNat) : interp t m = velAt t i := by
  rw [interp, seg_eq_some_iff.2 ⟨by omega, h, .inl hi⟩]
  exact if_pos hi

theorem interp_of_inSegment {t : CalTable} {m : Raw} {i : Nat} (h : inSegment t i m) :
    interp t m = interpAt t i m := by
  obtain ⟨hi, hle, hlt⟩ := h
  rw [interp, seg_eq_some_iff.2 ⟨by omega, hle, .inr hlt⟩]
  exact if_neg hi.ne

/-- A measurement is below the table, in one of its segments, or at or above its last threshold. -/
theorem measurement_cases (t : CalTable) (m : Raw) :
    m.toNat < (rawAt t 0).toNat ∨ (∃ i, inSegment t i m) ∨
      ∃ i, i + 1 = t.size ∧ (rawAt t i).toNat ≤ m.toNat := by
  cases hseg : seg t m with
  | none => exact .inl (seg_eq_none_iff.1 hseg)
  | some i =>
    obtain ⟨hi, hle, hlast | hlt⟩ := seg_eq_some_iff.1 hseg
    · exact .inr (.inr ⟨i, hlast, hle⟩)
    · by_cases hlast : i + 1 = t.size
      · exact .inr (.inr ⟨i, hlast, hle⟩)
      · exact .inr (.inl ⟨i, by omega, hle, hlt⟩)

theorem rawAt_of_getElem? {t : CalTable} {i : Nat} {p : CalPoint} (h : t.points[i]? = some p) :
    rawAt t i = p.raw := by
  rw [rawAt, romRead_of_getElem? h]

theorem velAt_of_getElem? {t : CalTable} {i : Nat} {p : CalPoint} (h : t.points[i]? = some p) :
    velAt t i = p.vel := by
  rw [velAt, romRead_of_getElem? h]

theorem exists_last {t : CalTable} {p : CalPoint} (h : t.points.getLast? = some p) :
    ∃ i, i + 1 = t.size ∧ t.points[i]? = some p := by
  rw [List.getLast?_eq_getElem?] at h
  have := two_le_length t
  exact ⟨t.points.length - 1, by rw [CalTable.size]; omega, h⟩

/-- Settles O17: below the table the search finds nothing, from the last threshold on the last point. -/
theorem interpClampsAtBothEnds : Obligations.InterpClampsAtBothEnds := by
  refine fun t m => ⟨fun p hp hlt => ?_, fun p hp hle => ?_⟩
  · rw [List.head?_eq_getElem?] at hp
    exact interp_of_below (by rwa [rawAt_of_getElem? hp])
  · obtain ⟨i, hi, hpi⟩ := exists_last hp
    rw [interp_of_last hi (by rwa [rawAt_of_getElem? hpi]), velAt_of_getElem? hpi]

/-- `den` of segment `i` (R84), over the natural numbers. -/
def denAt (t : CalTable) (i : Nat) : Nat := (rawAt t (i + 1)).toNat - (rawAt t i).toNat

/-- `frac` of R84 for a given `num`. -/
def fracFor (t : CalTable) (i num : Nat) : F32 := fdiv (i2f num) (i2f (denAt t i))

/-- `prod` of R84 for a given `num`. -/
def prodFor (t : CalTable) (i num : Nat) : F32 := fmul (fracFor t i num) (dvAt t i)

/-- The formula of R84 for a given `num`, also for `num = den`, where it reaches the next point. -/
def segmentAt (t : CalTable) (i num : Nat) : F32 := fadd (velAt t i) (prodFor t i num)

theorem rawAt_lt_succ {t : CalTable} {i : Nat} (hi : i + 1 < t.size) :
    (rawAt t i).toNat < (rawAt t (i + 1)).toNat := rawAt_lt_rawAt (Nat.lt_succ_self i) hi

theorem denAt_eq {t : CalTable} {i : Nat} (hi : i + 1 < t.size) :
    denAt t i = (rawAt t (i + 1) - rawAt t i).toNat :=
  (BitVec.toNat_sub_of_le (BitVec.le_def.2 (rawAt_lt_succ hi).le)).symm

theorem interp_eq_segmentAt {t : CalTable} {m : Raw} {i : Nat} (h : inSegment t i m) :
    interp t m = segmentAt t i (m.toNat - (rawAt t i).toNat) := by
  have ⟨hi, hle, _⟩ := h
  rw [interp_of_inSegment h, ← BitVec.toNat_sub_of_le (BitVec.le_def.2 hle), segmentAt, prodFor,
    fracFor, denAt_eq hi]
  rfl

/-- Settles O18: neighbouring points are a segment, and `interp` is its formula. -/
theorem interpEvaluatesFormula : Obligations.InterpEvaluatesFormula := by
  intro t m i p q hp hq hle hlt
  have hrawP := rawAt_of_getElem? hp
  have hrawQ := rawAt_of_getElem? hq
  have hsize : i + 1 < t.size := (List.getElem?_eq_some_iff.1 hq).1
  rw [interp_eq_segmentAt ⟨hsize, by rwa [hrawP], by rwa [hrawQ]⟩, segmentAt, prodFor, fracFor,
    denAt, dvAt, hrawP, hrawQ, velAt_of_getElem? hp, velAt_of_getElem? hq]

/-! ## The exact points (R88 item 3) -/

theorem roundBits_lt (n d : Nat) : roundBits n d < 2 ^ 31 := by
  simp only [roundBits]
  split <;> omega

theorem unitsOf_le_max {x : F32} (h : isFinite x = true) : unitsOf x ≤ (2 ^ 24 - 1) * 2 ^ 253 := by
  obtain ⟨s, k, hsk, hk, hx⟩ := exists_significand h
  rw [hx, unitsOf_packF32 hsk]
  have hrange := hsk.inRange
  have hs : s ≤ 253 := by rcases hsk.normal with h | h <;> omega
  exact Nat.mul_le_mul (by omega) (Nat.pow_le_pow_right (by decide) hs)

theorem Ordinary.valueOf_le_maxFinite {x : F32} (h : Ordinary x) : valueOf x ≤ maxFinite := by
  rw [valueOf_eq, h.sign, withSign, if_neg Bool.false_ne_true, div_le_iff₀ cast_one_units_pos]
  have hcast : (unitsOf x : Rat) ≤ ((2 ^ 24 - 1) * 2 ^ 253 : Nat) := by
    exact_mod_cast unitsOf_le_max h.finite
  refine hcast.trans_eq ?_
  rw [maxFinite, one]
  norm_num

theorem Ordinary.isFinite_fsub {x y : F32} (hx : Ordinary x) (hy : Ordinary y) :
    isFinite (fsub x y) = true := by
  refine (nearestEven_fsub hx.finite hy.finite (abs_le.2 ⟨?_, ?_⟩)).1
  · linarith [hx.valueOf_nonneg, hy.valueOf_le_maxFinite]
  · linarith [hx.valueOf_le_maxFinite, hy.valueOf_nonneg]

theorem Ordinary.signedUnits_eq {x : F32} (h : Ordinary x) : signedUnits x = unitsOf x := by
  rw [signedUnits, h.sign, if_neg Bool.false_ne_true]

/-- Adding a zero of either sign leaves an ordinary value as it is. -/
theorem Ordinary.fadd_zero {x : F32} (h : Ordinary x) (sign : Bool) : fadd x (packF32 sign 0) = x := by
  cases sign with
  | false => exact fadd_plusZero x
  | true =>
    have hzero : signedUnits (packF32 true 0) = 0 := by decide
    rw [fadd, if_neg (by decide), sumF32_of_finite h.finite (isFinite_packF32 (by decide) _), hzero,
      h.signedUnits_eq, h.sign, add_zero, Bool.false_and, Int.natAbs_natCast,
      decide_eq_false (not_lt.2 (Int.natCast_nonneg _)), h.packF32_roundBits]
    split
    case isTrue hx =>
      rw [← h.packF32_roundBits, Int.natCast_eq_zero.1 hx, roundBits_zero]
    case isFalse => rfl

theorem denAt_pos {t : CalTable} {i : Nat} (hi : i + 1 < t.size) : 0 < denAt t i :=
  Nat.sub_pos_of_lt (rawAt_lt_succ hi)

theorem denAt_lt (t : CalTable) (i : Nat) : denAt t i < 2 ^ 24 := by
  have := (rawAt t (i + 1)).isLt
  rw [denAt]
  omega

theorem fracFor_zero {t : CalTable} {i : Nat} (hi : i + 1 < t.size) : fracFor t i 0 = plusZero := by
  obtain ⟨⟨hfinite, hsign⟩, hval⟩ := i2f_of_lt (denAt_lt t i)
  have hne : valueOf (i2f (denAt t i)) ≠ 0 := by
    rw [hval]
    exact_mod_cast (denAt_pos hi).ne'
  rw [fracFor, i2f_zero, fdiv_of_finite ordinary_plusZero.finite hfinite (unitsOf_ne_zero_iff.2 hne),
    ordinary_plusZero.sign, hsign, unitsOf_plusZero, zero_mul, roundBits_zero]
  rfl

theorem segmentAt_zero {t : CalTable} {i : Nat} (hi : i + 1 < t.size) (hvel : Ordinary (velAt t i))
    (hdv : isFinite (dvAt t i) = true) : segmentAt t i 0 = velAt t i := by
  rw [segmentAt, prodFor, fracFor_zero hi, plusZero_fmul hdv, hvel.fadd_zero]

theorem ordinary_velAt {t : CalTable} (h : ordinaryTable t) {i : Nat} (hi : i < t.size) :
    Ordinary (velAt t i) := by
  rw [velAt, romRead_of_lt hi]
  obtain ⟨hfinite, hsign⟩ := h _ (List.getElem_mem hi)
  exact ⟨hfinite, hsign⟩

theorem interp_rawAt {t : CalTable} (h : ordinaryTable t) {i : Nat} (hi : i < t.size) :
    interp t (rawAt t i) = velAt t i := by
  rcases (Nat.succ_le_of_lt hi).eq_or_lt with hlast | hlt
  · exact interp_of_last hlast (le_refl _)
  · rw [interp_eq_segmentAt ⟨hlt, le_refl _, rawAt_lt_succ hlt⟩, Nat.sub_self]
    exact segmentAt_zero hlt (ordinary_velAt h hi)
      ((ordinary_velAt h hlt).isFinite_fsub (ordinary_velAt h hi))

/-- Settles O19: at a threshold `num = 0`, so `frac` and `prod` are zeros, which leave the velocity. -/
theorem interpExactAtThresholds : Obligations.InterpExactAtThresholds := by
  intro t h p hp
  obtain ⟨i, hi, rfl⟩ := List.getElem_of_mem hp
  have hread := List.getElem?_eq_getElem hi
  rw [← rawAt_of_getElem? hread, interp_rawAt h hi, velAt_of_getElem? hread]

/-! ## Order of rounded values -/

/-- `x` is the rounding of `q` and has sign bit 0. -/
structure RoundsTo (q : Rat) (x : F32) : Prop where
  ordinary : Ordinary x
  nearest : nearestEven q x

/-- An exact result that is representable is not changed. -/
theorem RoundsTo.valueOf_eq {x y : F32} (h : RoundsTo (valueOf y) x) (hy : Ordinary y) :
    valueOf x = valueOf y := by
  have hle := (h.nearest.2 y hy.finite).1
  rw [sub_self, abs_zero] at hle
  exact sub_eq_zero.1 (abs_nonpos_iff.1 hle)

/-- Of two exact results the larger one does not round to the smaller value. -/
theorem RoundsTo.valueOf_le_of_lt {p q : Rat} {x y : F32} (hx : RoundsTo p x) (hy : RoundsTo q y)
    (h : p < q) : valueOf x ≤ valueOf y := by
  have hp := (hx.nearest.2 y hy.ordinary.finite).1
  have hq := (hy.nearest.2 x hx.ordinary.finite).1
  rw [← sq_le_sq] at hp hq
  by_contra! hlt
  have hbelow : valueOf x + valueOf y ≤ 2 * p := by nlinarith
  have habove : 2 * q ≤ valueOf x + valueOf y := by nlinarith
  linarith

/-- Rounding a strictly increasing function of the operand is non-decreasing. -/
theorem valueOf_le_of_strictMono {f : F32 → F32} {g : Rat → Rat} (hg : StrictMono g) {x y : F32}
    (hx : Ordinary x) (hy : Ordinary y) (hfx : RoundsTo (g (valueOf x)) (f x))
    (hfy : RoundsTo (g (valueOf y)) (f y)) (h : valueOf x ≤ valueOf y) :
    valueOf (f x) ≤ valueOf (f y) := by
  rcases h.eq_or_lt with heq | hlt
  · rw [hx.eq_of_valueOf_eq hy heq]
  · exact hfx.valueOf_le_of_lt hfy (hg hlt)

theorem signOf_packF32_roundBits (sign : Bool) (n d : Nat) :
    signOf (packF32 sign (roundBits n d)) = sign := signOf_packF32 (roundBits_lt n d) sign

theorem Ordinary.roundsTo_fadd {a b : F32} (ha : Ordinary a) (hb : Ordinary b)
    (h : valueOf a + valueOf b ≤ maxFinite) : RoundsTo (valueOf a + valueOf b) (fadd a b) := by
  have hnear := nearestEven_fadd ha.finite hb.finite
    (by rwa [abs_of_nonneg (add_nonneg ha.valueOf_nonneg hb.valueOf_nonneg)])
  refine ⟨⟨hnear.1, ?_⟩, hnear⟩
  rw [fadd, sumF32_of_finite ha.finite hb.finite, ha.signedUnits_eq, hb.signedUnits_eq,
    ha.sign, hb.sign]
  split
  · exact ha.sign
  · split
    · rw [signOf_packF32 (by decide), Bool.and_self]
    · rw [signOf_packF32_roundBits]
      exact decide_eq_false (by omega)

theorem Ordinary.roundsTo_fmul {a b : F32} (ha : Ordinary a) (hb : Ordinary b)
    (h : valueOf a * valueOf b ≤ maxFinite) : RoundsTo (valueOf a * valueOf b) (fmul a b) := by
  have hnear := nearestEven_fmul ha.finite hb.finite
    (by rwa [abs_of_nonneg (mul_nonneg ha.valueOf_nonneg hb.valueOf_nonneg)])
  refine ⟨⟨hnear.1, ?_⟩, hnear⟩
  rw [fmul_of_finite ha.finite hb.finite, signOf_packF32_roundBits, ha.sign, hb.sign]
  rfl

theorem Ordinary.roundsTo_fdiv {a b : F32} (ha : Ordinary a) (hb : Ordinary b) (hne : valueOf b ≠ 0)
    (h : valueOf a / valueOf b ≤ maxFinite) : RoundsTo (valueOf a / valueOf b) (fdiv a b) := by
  have hnear := nearestEven_fdiv ha.finite hb.finite hne
    (by rwa [abs_of_nonneg (div_nonneg ha.valueOf_nonneg hb.valueOf_nonneg)])
  refine ⟨⟨hnear.1, ?_⟩, hnear⟩
  rw [fdiv_of_finite ha.finite hb.finite (unitsOf_ne_zero_iff.2 hne), signOf_packF32_roundBits, ha.sign,
    hb.sign]
  rfl

/-! ## A segment with an exact rise -/

/-- A segment between two ordinary velocities whose `dv` is positive and exact (R86 item 5). -/
structure RisingSegment (t : CalTable) (i : Nat) : Prop where
  index : i + 1 < t.size
  low : Ordinary (velAt t i)
  high : Ordinary (velAt t (i + 1))
  dv : Ordinary (dvAt t i)
  pos : 0 < valueOf (dvAt t i)
  exact : valueOf (dvAt t i) = valueOf (velAt t (i + 1)) - valueOf (velAt t i)

/-- 1.0. -/
def plusOne : F32 := 0x3F800000

theorem valueOf_plusOne : valueOf plusOne = 1 := by
  have hunits : signedUnits plusOne = one := by decide
  rw [valueOf, hunits, Int.cast_natCast, div_self cast_one_units_pos.ne']

theorem ordinary_plusOne : Ordinary plusOne := ordinary_packF32 (by decide)

section
variable {t : CalTable} {i : Nat}

theorem fracFor_roundsTo (hi : i + 1 < t.size) {num : Nat} (hnum : num ≤ denAt t i) :
    RoundsTo ((num : Rat) / denAt t i) (fracFor t i num) := by
  obtain ⟨hnumOrd, hnumVal⟩ := i2f_of_lt (hnum.trans_lt (denAt_lt t i))
  obtain ⟨hdenOrd, hdenVal⟩ := i2f_of_lt (denAt_lt t i)
  have hpos : (0 : Rat) < denAt t i := by exact_mod_cast denAt_pos hi
  have hle : (num : Rat) / denAt t i ≤ 1 := (div_le_one hpos).2 (by exact_mod_cast hnum)
  rw [fracFor, ← hnumVal, ← hdenVal]
  rw [← hnumVal, ← hdenVal] at hle
  refine hnumOrd.roundsTo_fdiv hdenOrd (by rw [hdenVal]; exact hpos.ne') ?_
  exact hle.trans (valueOf_plusOne.symm.trans_le ordinary_plusOne.valueOf_le_maxFinite)

theorem fracFor_mono (hi : i + 1 < t.size) {num num' : Nat} (h : num ≤ num')
    (hnum : num' ≤ denAt t i) :
    valueOf (fracFor t i num) ≤ valueOf (fracFor t i num') := by
  rcases h.eq_or_lt with rfl | hlt
  · exact le_refl _
  · have hpos : (0 : Rat) < denAt t i := by exact_mod_cast denAt_pos hi
    refine (fracFor_roundsTo hi (h.trans hnum)).valueOf_le_of_lt (fracFor_roundsTo hi hnum) ?_
    gcongr

theorem fracFor_denAt (hi : i + 1 < t.size) : valueOf (fracFor t i (denAt t i)) = 1 := by
  have hpos : (0 : Rat) < denAt t i := by exact_mod_cast denAt_pos hi
  have hround := fracFor_roundsTo hi (le_refl (denAt t i))
  rw [div_self hpos.ne', ← valueOf_plusOne] at hround
  rw [hround.valueOf_eq ordinary_plusOne, valueOf_plusOne]

theorem fracFor_le_one (hi : i + 1 < t.size) {num : Nat} (hnum : num ≤ denAt t i) :
    valueOf (fracFor t i num) ≤ 1 :=
  (fracFor_mono hi hnum (le_refl _)).trans_eq (fracFor_denAt hi)

variable (hrise : RisingSegment t i)
include hrise

theorem frac_mul_dv_le {num : Nat} (hnum : num ≤ denAt t i) :
    valueOf (fracFor t i num) * valueOf (dvAt t i) ≤ valueOf (dvAt t i) :=
  mul_le_of_le_one_left hrise.pos.le (fracFor_le_one hrise.index hnum)

theorem prodFor_roundsTo {num : Nat} (hnum : num ≤ denAt t i) :
    RoundsTo (valueOf (fracFor t i num) * valueOf (dvAt t i)) (prodFor t i num) :=
  (fracFor_roundsTo hrise.index hnum).ordinary.roundsTo_fmul hrise.dv
    ((frac_mul_dv_le hrise hnum).trans hrise.dv.valueOf_le_maxFinite)

theorem prodFor_mono {num num' : Nat} (h : num ≤ num') (hnum : num' ≤ denAt t i) :
    valueOf (prodFor t i num) ≤ valueOf (prodFor t i num') :=
  valueOf_le_of_strictMono (f := (fmul · (dvAt t i))) (strictMono_mul_right_of_pos hrise.pos)
    (fracFor_roundsTo hrise.index (h.trans hnum)).ordinary (fracFor_roundsTo hrise.index hnum).ordinary
    (prodFor_roundsTo hrise (h.trans hnum)) (prodFor_roundsTo hrise hnum)
    (fracFor_mono hrise.index h hnum)

theorem prodFor_denAt : valueOf (prodFor t i (denAt t i)) = valueOf (dvAt t i) := by
  have hround := prodFor_roundsTo hrise (le_refl _)
  rw [fracFor_denAt hrise.index, one_mul] at hround
  exact hround.valueOf_eq hrise.dv

theorem vel_add_prod_le {num : Nat} (hnum : num ≤ denAt t i) :
    valueOf (velAt t i) + valueOf (prodFor t i num) ≤ valueOf (velAt t (i + 1)) := by
  have hprod := (prodFor_mono hrise hnum (le_refl _)).trans_eq (prodFor_denAt hrise)
  linarith [hrise.exact]

theorem segmentAt_roundsTo {num : Nat} (hnum : num ≤ denAt t i) :
    RoundsTo (valueOf (velAt t i) + valueOf (prodFor t i num)) (segmentAt t i num) :=
  hrise.low.roundsTo_fadd (prodFor_roundsTo hrise hnum).ordinary
    ((vel_add_prod_le hrise hnum).trans hrise.high.valueOf_le_maxFinite)

theorem segmentAt_mono {num num' : Nat} (h : num ≤ num') (hnum : num' ≤ denAt t i) :
    valueOf (segmentAt t i num) ≤ valueOf (segmentAt t i num') :=
  valueOf_le_of_strictMono (f := fadd (velAt t i)) (add_right_strictMono)
    (prodFor_roundsTo hrise (h.trans hnum)).ordinary (prodFor_roundsTo hrise hnum).ordinary
    (segmentAt_roundsTo hrise (h.trans hnum)) (segmentAt_roundsTo hrise hnum) (prodFor_mono hrise h hnum)

/-- At `num = den` the formula has reached the next point. -/
theorem segmentAt_denAt : valueOf (segmentAt t i (denAt t i)) = valueOf (velAt t (i + 1)) := by
  have hround := segmentAt_roundsTo hrise (le_refl _)
  rw [prodFor_denAt hrise, hrise.exact, add_sub_cancel] at hround
  exact hround.valueOf_eq hrise.high

end

/-! ## Tables that rise exactly (R86, R88) -/

/-- Every velocity of the table is ordinary, and every segment rises by an exact `dv`. -/
structure RisingTable (t : CalTable) : Prop where
  ordinary : ordinaryTable t
  segment : ∀ i, i + 1 < t.size → RisingSegment t i

section
variable {t : CalTable} (ht : RisingTable t)
include ht

theorem ordinary_interp (m : Raw) : Ordinary (interp t m) := by
  obtain hlow | ⟨i, hseg⟩ | ⟨i, hlast, hle⟩ := measurement_cases t m
  · rw [interp_of_below hlow]
    exact ordinary_plusZero
  · rw [interp_eq_segmentAt hseg]
    obtain ⟨hi, _, hlt⟩ := hseg
    exact (segmentAt_roundsTo (ht.segment i hi) (Nat.sub_le_sub_right hlt.le _)).ordinary
  · rw [interp_of_last hlast hle]
    exact ordinary_velAt ht.ordinary (by omega)

/-- The formula of a segment gives the value up to and including the next threshold. -/
theorem valueOf_interp_of_le {m : Raw} {i : Nat} (hi : i + 1 < t.size)
    (hlow : (rawAt t i).toNat ≤ m.toNat) (hhigh : m.toNat ≤ (rawAt t (i + 1)).toNat) :
    valueOf (interp t m) = valueOf (segmentAt t i (m.toNat - (rawAt t i).toNat)) := by
  rcases hhigh.lt_or_eq with hlt | heq
  · rw [interp_eq_segmentAt ⟨hi, hlow, hlt⟩]
  · obtain rfl : m = rawAt t (i + 1) := BitVec.eq_of_toNat_eq heq
    rw [interp_rawAt ht.ordinary hi]
    exact (segmentAt_denAt (ht.segment i hi)).symm

theorem interp_le_succ {m n : Raw} (h : n.toNat = m.toNat + 1) :
    valueOf (interp t m) ≤ valueOf (interp t n) := by
  obtain hlow | ⟨i, hi, hle, hlt⟩ | ⟨i, hlast, hle⟩ := measurement_cases t m
  · rw [interp_of_below hlow, valueOf_plusZero]
    exact (ordinary_interp ht n).valueOf_nonneg
  · rw [valueOf_interp_of_le ht hi hle hlt.le, valueOf_interp_of_le ht hi (by omega) (by omega)]
    exact segmentAt_mono (ht.segment i hi) (by omega) (by rw [denAt]; omega)
  · rw [interp_of_last hlast hle, interp_of_last hlast (by omega)]

theorem interp_mono {m n : Raw} (h : m.toNat ≤ n.toNat) :
    valueOf (interp t m) ≤ valueOf (interp t n) := by
  have hchain : MonotoneOn (fun k => valueOf (interp t (BitVec.ofNat 12 k))) (Set.Iio (2 ^ 12)) := by
    refine monotoneOn_of_le_succ Set.ordConnected_Iio fun k _ _ hk => interp_le_succ ht ?_
    rw [Nat.succ_eq_succ, Set.mem_Iio] at hk
    rw [BitVec.toNat_ofNat, BitVec.toNat_ofNat, Nat.succ_eq_succ]
    omega
  simpa using hchain m.isLt n.isLt h

theorem interp_le_last {last : CalPoint} (hlast : t.points.getLast? = some last) (m : Raw) :
    valueOf (interp t m) ≤ valueOf last.vel := by
  have hle (p : Raw) : p.toNat ≤ (4095 : Raw).toNat := Nat.le_of_lt_succ p.isLt
  rw [← (interpClampsAtBothEnds t 4095).2 last hlast (hle _)]
  exact interp_mono ht (hle m)

end

/-! ## The built-in tables (R86, R88) -/

theorem ordinaryTable_builtinTable (v : Variant) : ordinaryTable (builtinTable v) := by
  unfold ordinaryTable
  cases v <;> decide

/-- R86 item 5, checked of each segment of a built-in table. -/
theorem builtin_rises (v : Variant) : ∀ i < (builtinTable v).size - 1,
    (isFinite (dvAt (builtinTable v) i) = true ∧ signOf (dvAt (builtinTable v) i) = false) ∧
      0 < valueOf (dvAt (builtinTable v) i) ∧
      valueOf (dvAt (builtinTable v) i)
        = valueOf (velAt (builtinTable v) (i + 1)) - valueOf (velAt (builtinTable v) i) := by
  cases v <;> decide +kernel

theorem risingTable_builtinTable (v : Variant) : RisingTable (builtinTable v) := by
  have hordinary := ordinaryTable_builtinTable v
  refine ⟨hordinary, fun i hi => ?_⟩
  obtain ⟨⟨hfinite, hsign⟩, hpos, hexact⟩ := builtin_rises v i (by omega)
  exact ⟨hi, ordinary_velAt hordinary (by omega), ordinary_velAt hordinary hi, ⟨hfinite, hsign⟩, hpos,
    hexact⟩

/-- Settles O23: the thresholds rise, and the rises of the built-in tables are exact. -/
theorem segmentDifferencesAreExact : Obligations.SegmentDifferencesAreExact :=
  fun v i hi => ⟨denAt_eq hi ▸ denAt_pos hi, ((risingTable_builtinTable v).segment i hi).exact⟩

/-- Settles O20: the built-in tables rise exactly, and rounding keeps the order of the exact results. -/
theorem interpMonotoneOnBuiltinTables : Obligations.InterpMonotoneOnBuiltinTables :=
  fun v _ _ h => interp_mono (risingTable_builtinTable v) h

/-- Settles O21: every velocity is ordinary, and the last one is reached at the top measurement. -/
theorem velocityStaysInRange : Obligations.VelocityStaysInRange := by
  intro v m last hlast
  have hrising := risingTable_builtinTable v
  have hordinary := ordinary_interp hrising m
  exact ⟨hordinary.finite, hordinary.sign, hordinary.valueOf_nonneg, interp_le_last hrising hlast m⟩

/-! ## The error of one rounding -/

theorem unitsOf_lt_spacings (x : F32) : unitsOf x < 2 ^ 24 * spacingUnits (expOf x) := by
  have hfrac := fracOf_lt x
  by_cases hx : expOf x = 0
  · rw [unitsOf_of_subnormal hx, hx]
    exact hfrac.trans (by decide)
  · rw [unitsOf_of_normal hx]
    exact Nat.mul_lt_mul_of_pos_right (by omega) (Nat.two_pow_pos _)

theorem exists_units {q : Rat} (h : 0 ≤ q) : ∃ n d : Nat, 0 < d ∧ q = (n : Rat) / d / one := by
  refine ⟨(q * one).num.toNat, (q * one).den, (q * one).den_pos, ?_⟩
  have hnum : 0 ≤ (q * one).num := Rat.num_nonneg.2 (mul_nonneg h cast_one_units_pos.le)
  have hcast : (((q * one).num.toNat : Nat) : Rat) = (q * one).num := by
    exact_mod_cast Int.toNat_of_nonneg hnum
  rw [hcast, Rat.num_div_den, mul_div_cancel_right₀ _ cast_one_units_pos.ne']

/-- The value that `roundBits` packs is at most half a shifted spacing away. -/
theorem roundBits_error {n d : Nat} (hd : 0 < d) (h : (n : Rat) / d / one ≤ maxFinite) :
    |valueOf (packF32 false (roundBits n d)) - (n : Rat) / d / one|
      ≤ (2 ^ shiftOf n d : Nat) / (one : Rat) / 2 := by
  have hsk := isSignificand_of_le hd (maxFinite_units hd h)
  have herr := (roundHalfEven_error n (Nat.mul_pos hd (Nat.two_pow_pos (shiftOf n d)))).1
  have hdist := abs_valueOf_roundBits_sub false hd hsk
  rw [withSign, if_neg Bool.false_ne_true] at hdist
  have hdRat : (0 : Rat) < d := by exact_mod_cast hd
  have hone := cast_one_units_pos
  rw [hdist, div_div _ _ (2 : Rat), div_le_div_iff₀ (by positivity) (by positivity)]
  have hcast : (2 * |(significandOf n d : Int) * (d * 2 ^ shiftOf n d : Nat) - n| : Rat)
      ≤ (d * 2 ^ shiftOf n d : Nat) := by exact_mod_cast herr
  push_cast at hcast ⊢
  nlinarith

theorem lt_spacings_of_le {n d : Nat} {b : F32} (hd : 0 < d) (hb : Ordinary b)
    (h : (n : Rat) / d / one ≤ valueOf b) : n < 2 ^ 24 * (d * 2 ^ (expOf b - 1)) := by
  have hdRat : (0 : Rat) < d := by exact_mod_cast hd
  rw [valueOf_eq, hb.sign, withSign, if_neg Bool.false_ne_true,
    div_le_div_iff_of_pos_right cast_one_units_pos, div_le_iff₀ hdRat] at h
  calc n ≤ unitsOf b * d := by exact_mod_cast h
    _ < 2 ^ 24 * spacingUnits (expOf b) * d := Nat.mul_lt_mul_of_pos_right (unitsOf_lt_spacings b) hd
    _ = 2 ^ 24 * (d * 2 ^ (expOf b - 1)) := by rw [spacingUnits]; ring

/-- The rounding of a number up to `b` is at most half the spacing of `b` away. -/
theorem RoundsTo.error_le {q : Rat} {x b : F32} (h : RoundsTo q x) (hb : Ordinary b) (hq : 0 ≤ q)
    (hle : q ≤ valueOf b) : |valueOf x - q| ≤ spacing b / 2 := by
  obtain ⟨n, d, hd, rfl⟩ := exists_units hq
  have hmax := hle.trans hb.valueOf_le_maxFinite
  have hsk := isSignificand_of_le hd (maxFinite_units hd hmax)
  have hshift : shiftOf n d ≤ expOf b - 1 := shiftOf_le hd (lt_spacings_of_le hd hb hle)
  have hnear := (h.nearest.2 _ (isFinite_packF32 (roundBits_eq hsk ▸ hsk.inRange) false)).1
  refine hnear.trans ((roundBits_error hd hmax).trans ?_)
  have hspacing : 2 ^ shiftOf n d ≤ spacingUnits (expOf b) := Nat.pow_le_pow_right (by decide) hshift
  rw [spacing]
  gcongr

/-! ## The error of a segment (R88 item 6) -/

/-- The largest value below 1.0. -/
def belowOne : F32 := 0x3F7FFFFF

theorem ordinary_belowOne : Ordinary belowOne := ordinary_packF32 (by decide)

theorem valueOf_belowOne : valueOf belowOne = 1 - 1 / 2 ^ 24 := by decide +kernel

/-- `num < den <= 4095` leaves `num / den` at least `1 / 4095` below 1 (R86 item 4). -/
theorem fraction_le_belowOne {t : CalTable} {i num : Nat} (hnum : num < denAt t i) :
    (num : Rat) / denAt t i ≤ valueOf belowOne := by
  have hden : denAt t i ≤ 4095 := by
    have := (rawAt t (i + 1)).isLt
    rw [denAt]
    omega
  have hpos : (0 : Rat) < denAt t i := by exact_mod_cast (Nat.zero_le num).trans_lt hnum
  have hnumRat : (num : Rat) + 1 ≤ denAt t i := by exact_mod_cast hnum
  have hdenRat : (denAt t i : Rat) ≤ 4095 := by exact_mod_cast hden
  rw [valueOf_belowOne, div_le_iff₀ hpos]
  linarith

/-- What the rounding of `prod` can add: nothing where `dv` is 1.0, since `frac` is representable. -/
def prodError (dv : F32) : Rat := if dv = plusOne then 0 else spacing dv / 2

/-- What the three roundings of a segment and the rounding of its two stored velocities, which stand for
`lowReal` and `highReal`, can add up to. -/
def segmentError (t : CalTable) (i : Nat) (lowReal highReal : Rat) : Rat :=
  spacing (velAt t (i + 1)) / 2 + prodError (dvAt t i)
    + spacing belowOne / 2 * valueOf (dvAt t i)
    + max |valueOf (velAt t i) - lowReal| |valueOf (velAt t (i + 1)) - highReal|

/-- Between two numbers a weighted mean of errors is at most the larger error. -/
theorem abs_weighted_le_max {f a b : Rat} (h0 : 0 ≤ f) (h1 : f ≤ 1) :
    |(1 - f) * a + f * b| ≤ max |a| |b| := by
  calc |(1 - f) * a + f * b| ≤ |(1 - f) * a| + |f * b| := abs_add_le _ _
    _ = (1 - f) * |a| + f * |b| := by
      rw [abs_mul, abs_mul, abs_of_nonneg h0, abs_of_nonneg (sub_nonneg.2 h1)]
    _ ≤ (1 - f) * max |a| |b| + f * max |a| |b| := by
      have := sub_nonneg.2 h1
      gcongr
      · exact le_max_left _ _
      · exact le_max_right _ _
    _ = max |a| |b| := by ring

section
variable {t : CalTable} {i num : Nat} (hrise : RisingSegment t i) (hnum : num < denAt t i)
include hrise hnum

theorem fracFor_error :
    |valueOf (fracFor t i num) - (num : Rat) / denAt t i| ≤ spacing belowOne / 2 :=
  (fracFor_roundsTo hrise.index hnum.le).error_le ordinary_belowOne (by positivity)
    (fraction_le_belowOne hnum)

theorem prodFor_error :
    |valueOf (prodFor t i num) - valueOf (fracFor t i num) * valueOf (dvAt t i)|
      ≤ prodError (dvAt t i) := by
  have hround := prodFor_roundsTo hrise hnum.le
  have hfrac := (fracFor_roundsTo hrise.index hnum.le).ordinary
  rw [prodError]
  split
  case isTrue hdv =>
    rw [hdv, valueOf_plusOne, mul_one] at hround ⊢
    rw [hround.valueOf_eq hfrac, sub_self, abs_zero]
  case isFalse =>
    exact hround.error_le hrise.dv (mul_nonneg hfrac.valueOf_nonneg hrise.pos.le)
      (frac_mul_dv_le hrise hnum.le)

theorem segmentAt_rounding_error :
    |valueOf (segmentAt t i num) - (valueOf (velAt t i) + valueOf (prodFor t i num))|
      ≤ spacing (velAt t (i + 1)) / 2 :=
  (segmentAt_roundsTo hrise hnum.le).error_le hrise.high
    (add_nonneg hrise.low.valueOf_nonneg (prodFor_roundsTo hrise hnum.le).ordinary.valueOf_nonneg)
    (vel_add_prod_le hrise hnum.le)

/-- The error of the formula is the sum of the errors of its operations and of the stored velocities. -/
theorem segmentAt_error (lowReal highReal : Rat) :
    |valueOf (segmentAt t i num) - (lowReal + num / denAt t i * (highReal - lowReal))|
      ≤ segmentError t i lowReal highReal := by
  have hden : (0 : Rat) < denAt t i := by exact_mod_cast denAt_pos hrise.index
  have hle : (num : Rat) / denAt t i ≤ 1 := (div_le_one hden).2 (by exact_mod_cast hnum.le)
  have hstored := abs_weighted_le_max (a := valueOf (velAt t i) - lowReal)
    (b := valueOf (velAt t (i + 1)) - highReal) (by positivity) hle
  have hfrac := mul_le_mul_of_nonneg_right (fracFor_error hrise hnum) hrise.pos.le
  rw [← abs_of_pos hrise.pos, ← abs_mul, abs_of_pos hrise.pos] at hfrac
  have hsum := segmentAt_rounding_error hrise hnum
  have hprod := prodFor_error hrise hnum
  have hexact := hrise.exact
  rw [segmentError]
  calc |valueOf (segmentAt t i num) - (lowReal + num / denAt t i * (highReal - lowReal))|
      = |(valueOf (segmentAt t i num) - (valueOf (velAt t i) + valueOf (prodFor t i num)))
          + (valueOf (prodFor t i num) - valueOf (fracFor t i num) * valueOf (dvAt t i))
          + (valueOf (fracFor t i num) - num / denAt t i) * valueOf (dvAt t i)
          + ((1 - num / denAt t i) * (valueOf (velAt t i) - lowReal)
            + num / denAt t i * (valueOf (velAt t (i + 1)) - highReal))| := by
        rw [hexact]; ring_nf
    _ ≤ _ := (abs_add_le _ _).trans (add_le_add ((abs_add_three _ _ _).trans
        (add_le_add (add_le_add hsum hprod) hfrac)) hstored)

end

/-! ## The formula over the rationals (R83) -/

theorem realSegment_eq_none {m : Nat} {table : List (Nat × Nat)} (h : ∀ q ∈ table, m < q.1) :
    realSegment m table = none := by
  induction table with
  | nil => rfl
  | cons p rest ih =>
    have hp := h p List.mem_cons_self
    rw [realSegment, ih fun q hq => h q (List.mem_cons_of_mem _ hq)]
    exact if_neg (by omega)

theorem realSegment_eq_some {m i : Nat} {table : List (Nat × Nat)} {p : Nat × Nat}
    (hp : table[i]? = some p) (hle : p.1 ≤ m) (habove : ∀ q ∈ table.drop (i + 1), m < q.1) :
    realSegment m table = some (p, table[i + 1]?) := by
  induction table generalizing i with
  | nil => cases hp
  | cons r rest ih =>
    cases i with
    | zero =>
      obtain rfl := Option.some.inj hp
      have hrest : realSegment m rest = none := realSegment_eq_none habove
      rw [realSegment, hrest, List.head?_eq_getElem?]
      exact if_pos hle
    | succ i =>
      rw [realSegment, ih hp habove]
      rfl

/-! ## The error on the built-in tables (R88 item 6) -/

/-- The velocity of entry `i` as the source writes it, in hundredths (R32, R33). -/
def hundredthsAt (v : Variant) (i : Nat) : Nat := ((decimalTable v).getD i (0, 0)).2

/-- The velocity of entry `i` as the source writes it. -/
def realVel (v : Variant) (i : Nat) : Rat := (hundredthsAt v i : Rat) / 100

theorem decimal_entry (v : Variant) : ∀ i < (builtinTable v).size,
    (decimalTable v)[i]? = some ((rawAt (builtinTable v) i).toNat, hundredthsAt v i) := by
  cases v <;> decide

theorem decimalTable_length (v : Variant) : (decimalTable v).length = (builtinTable v).size := by
  cases v <;> rfl

/-- The entries of the decimal table from index `k` on lie above `m` when the threshold of `k` does. -/
theorem lt_of_mem_drop_decimalTable {v : Variant} {k : Nat} {m : Raw}
    (h : k < (builtinTable v).size → m.toNat < (rawAt (builtinTable v) k).toNat) :
    ∀ q ∈ (decimalTable v).drop k, m.toNat < q.1 := by
  intro q hq
  obtain ⟨j, hj⟩ := List.mem_iff_getElem?.1 hq
  rw [List.getElem?_drop] at hj
  have hlt : k + j < (builtinTable v).size :=
    decimalTable_length v ▸ (List.getElem?_eq_some_iff.1 hj).1
  rw [decimal_entry v _ hlt] at hj
  obtain rfl := Option.some.inj hj
  exact (h (by omega)).trans_le (rawAt_le_rawAt (Nat.le_add_right k j) hlt)

theorem interpReal_of_below {v : Variant} {m : Raw}
    (h : m.toNat < (rawAt (builtinTable v) 0).toNat) : interpReal (decimalTable v) m.toNat = 0 := by
  have habove : ∀ q ∈ decimalTable v, m.toNat < q.1 :=
    lt_of_mem_drop_decimalTable (k := 0) fun _ => h
  rw [interpReal, realSegment_eq_none habove]

theorem interpReal_of_last {v : Variant} {m : Raw} {i : Nat} (hi : i + 1 = (builtinTable v).size)
    (h : (rawAt (builtinTable v) i).toNat ≤ m.toNat) :
    interpReal (decimalTable v) m.toNat = realVel v i := by
  have hend : (decimalTable v)[i + 1]? = none :=
    List.getElem?_eq_none (by rw [decimalTable_length]; omega)
  rw [interpReal, realSegment_eq_some (decimal_entry v i (by omega)) h
    (lt_of_mem_drop_decimalTable fun _ => by omega), hend, realVel]

theorem interpReal_of_inSegment {v : Variant} {m : Raw} {i : Nat} (h : inSegment (builtinTable v) i m) :
    interpReal (decimalTable v) m.toNat = realVel v i
      + (m.toNat - (rawAt (builtinTable v) i).toNat : Nat) / denAt (builtinTable v) i
        * (realVel v (i + 1) - realVel v i) := by
  obtain ⟨hi, hle, hlt⟩ := h
  rw [interpReal, realSegment_eq_some (decimal_entry v i (by omega)) hle
    (lt_of_mem_drop_decimalTable fun _ => hlt), decimal_entry v _ hi, denAt, Nat.cast_sub hle,
    Nat.cast_sub (rawAt_lt_succ hi).le, realVel, realVel]

/-- The bounds of R88 item 6. -/
def errorBound : Variant → Rat
  | .narrow => 47 / 100000000
  | .wide => 53 / 100000000

/-- In segment `i` the formula stays within the bound. -/
def segmentWithinBound (v : Variant) (i : Nat) : Prop :=
  ∀ num < denAt (builtinTable v) i,
    |valueOf (segmentAt (builtinTable v) i num)
      - (realVel v i + num / denAt (builtinTable v) i * (realVel v (i + 1) - realVel v i))|
      ≤ errorBound v

/-- In all segments but the last two the separate errors add up to no more than the bound. -/
theorem segmentError_le (v : Variant) : ∀ i < (builtinTable v).size - 3,
    segmentError (builtinTable v) i (realVel v i) (realVel v (i + 1)) ≤ errorBound v := by
  unfold segmentError prodError spacing
  cases v <;> decide +kernel

/-- In the last two segments they could add up to more, but do not all occur together: there, for 807
values of `num` in all, the formula is evaluated. -/
theorem last_segments_withinBound (v : Variant) : ∀ i < (builtinTable v).size - 1,
    (builtinTable v).size ≤ i + 3 → segmentWithinBound v i := by
  unfold segmentWithinBound
  cases v <;> decide +kernel

theorem builtin_segmentWithinBound {v : Variant} {i : Nat} (hi : i + 1 < (builtinTable v).size) :
    segmentWithinBound v i := by
  rcases Nat.lt_or_ge (i + 3) (builtinTable v).size with hlt | hge
  · exact fun num hnum => (segmentAt_error ((risingTable_builtinTable v).segment i hi) hnum _ _).trans
      (segmentError_le v i (by omega))
  · exact last_segments_withinBound v i (by omega) hge

/-- The clamp to the last velocity is off by the rounding of the stored value. -/
theorem storedVel_error (v : Variant) : ∀ i < (builtinTable v).size,
    |valueOf (velAt (builtinTable v) i) - realVel v i| ≤ errorBound v := by
  cases v <;> decide +kernel

theorem interp_error (v : Variant) (m : Raw) :
    |valueOf (interp (builtinTable v) m) - interpReal (decimalTable v) m.toNat| ≤ errorBound v := by
  obtain hlow | ⟨i, hseg⟩ | ⟨i, hlast, hle⟩ := measurement_cases (builtinTable v) m
  · rw [interp_of_below hlow, interpReal_of_below hlow, valueOf_plusZero, sub_zero, abs_zero]
    cases v <;> norm_num [errorBound]
  · rw [interp_eq_segmentAt hseg, interpReal_of_inSegment hseg]
    obtain ⟨hi, hle, hlt⟩ := hseg
    exact builtin_segmentWithinBound hi _ (Nat.sub_lt_sub_right hle hlt)
  · rw [interp_of_last hlast hle, interpReal_of_last hlast hle]
    exact storedVel_error v i (by omega)

/-- Settles O22: below the table nothing is lost, in a segment the errors of the three roundings and of
the stored velocities stay within the bound, above it only the last velocity's own rounding counts. -/
theorem interpErrorBound : Obligations.InterpErrorBound :=
  fun m => ⟨interp_error .narrow m, interp_error .wide m⟩

/-! ## The command (R87) -/

theorem exec_interp_of_idle {m : Raw} {s : State} (h : s.regs.st = .idle) :
    exec (.interp m) s = .next ((s.setVel (interp s.params.table m)).respond .accept) :=
  whenAccepted_of_true (acceptsStart_iff.2 h)

/-- The upper 28 bits of the operand are the reserved field of format M (R53). -/
theorem decodeM_of_operand (op : BitVec 8) (z : BitVec 28) (m : Raw) (f : Raw → Instr) :
    decodeM (commandWord op (z ++ m)) f = if z = 0 then .instr (f m) else .reserved := by
  by_cases hz : z = 0
  · rw [if_pos hz, hz]
    exact decodeM_commandWord op m f
  · rw [if_neg hz, decodeM, if_neg]
    rw [mbzField_eq_zero_iff, operandOf_commandWord]
    intro h
    have hupper := congrArg (BitVec.extractLsb' 12 28) h
    rw [operandM, BitVec.extractLsb'_append_eq_left, BitVec.extractLsb'_append_eq_left] at hupper
    exact hz hupper

/-- Settles O9: `VEL` is `interp` of the operand, written only where the command is accepted; the corner
cases and the worked example of R87 are evaluated. -/
theorem interpWritesOnlyVel : Obligations.InterpWritesOnlyVel := by
  refine ⟨fun m s h => exec_interp_of_idle h, fun m s h => whenAccepted_acceptsStart_of_ne_idle h,
    fun z m => ?_, by decide +kernel⟩
  exact (decodeCommand_interp (opcodeOf_commandWord _ _)).trans (decodeM_of_operand _ z m _)

end Sys2Proof.Machine
end

section
/-! PROOFS. The client sequencer (spec/42_client_sequencer.md): what each sequencing command and each event
does to the unit, what any instruction can do, and from that the moves of `ST`, the transport requests,
the way into `Decoded` and the source's operations end to end. -/

namespace Sys2Proof.Machine

open Sys2Proof.Laws.EncodedFields (opcodeOf_commandWord portCode)

/-! ## The sequencing commands (R101, R108, R109) -/

/-- Format Z has no operand: the whole operand field is reserved (R54). -/
theorem decodeZ_of_operand (op : BitVec 8) (d : BitVec 40) (i : Instr) :
    decodeZ (commandWord op d) i = if d = 0 then .instr i else .reserved := by
  rw [decodeZ, operandOf_commandWord]

/-- Settles O26: each of the three is `start` with its own kind and request. -/
theorem startClearsAndRequests : Obligations.StartClearsAndRequests := by
  intro s i k q hrow
  have hstart : exec i s = start k q s := by
    rcases hrow with ⟨rfl, rfl, rfl⟩ | ⟨rfl, rfl, rfl⟩ | ⟨rfl, rfl, rfl⟩ <;> rfl
  rw [hstart]
  exact ⟨fun hidle => ⟨_, start_of_idle hidle, rfl, fun _ => ⟨rfl, rfl⟩⟩,
    fun hne => whenAccepted_acceptsStart_of_ne_idle hne⟩

theorem exec_ack_of_done {s : State} (h : s.regs.st = .decoded ∨ s.regs.st = .failed) :
    exec .ack s = .next ((leave s).respond .accept) :=
  whenAccepted_of_true (acceptsAck_iff.2 h)

theorem exec_ack_of_not_done {s : State} (h : s.regs.st = .idle ∨ s.regs.st = .reading) :
    exec .ack s = .next (s.respond .rejState) := by
  refine whenAccepted_of_false ?_
  rcases h with h | h <;> rw [h] <;> rfl

/-- Settles O27: `leave` writes the registers of reset; the operand field is format Z's. -/
theorem ackReturnsToIdle : Obligations.AckReturnsToIdle :=
  ⟨fun _ h => exec_ack_of_done h, fun _ h => exec_ack_of_not_done h, fun d =>
    (decodeCommand_ack (opcodeOf_commandWord _ d)).trans (decodeZ_of_operand _ d _)⟩

theorem exec_abort_of_reading {s : State} (h : s.regs.st = .reading) :
    exec .abort s = .next (((s.setKind .none).setSt .idle).acceptEmit .cancel) :=
  whenAccepted_of_true (acceptsAbort_iff.2 h)

theorem exec_abort_of_ne_reading {s : State} (h : s.regs.st ≠ .reading) :
    exec .abort s = .next (s.respond .rejState) :=
  whenAccepted_of_false (Bool.eq_false_iff.2 (mt acceptsAbort_iff.1 h))

/-- With the results unwritten, `ST` and `KIND` are all that differs from reset. -/
theorem Regs.eq_reset_of_unwritten {r : Regs} (h : r.unwritten) :
    { r with st := .idle, kind := .none } = Regs.reset := by
  obtain ⟨hv, hm, hvel, herr, hte⟩ := h
  simp [Regs.reset, hv, hm, hvel, herr, hte]

/-- Settles O28: `ABORT` writes `ST` and `KIND` only, and R24 has every result unwritten in `Reading`. -/
theorem abortLeavesNoPartialState : Obligations.AbortLeavesNoPartialState := by
  refine ⟨fun s h => ⟨_, exec_abort_of_reading h, rfl, fun _ => rfl, fun hinv => ?_⟩,
    fun s h => exec_abort_of_ne_reading h, fun d =>
      (decodeCommand_abort (opcodeOf_commandWord _ d)).trans (decodeZ_of_operand _ d _)⟩
  exact Regs.eq_reset_of_unwritten ((inv_iff_of_reading h).1 hinv).2

/-! ## The events (R105 to R107, R110) -/

/-- An event that is not taken is dropped (R110). -/
theorem exec_of_not_eventTaken {i : Instr} {s : State} (hi : isCommand i = false)
    (h : eventTaken s.regs i = false) : exec i s = .next s.quiet := by
  cases i with
  | rxdone p | txndone | terr e => exact if_neg (Bool.eq_false_iff.1 h)
  | validate p | extract p | interp m | probe | readraw | readvel | ack | abort => cases hi

theorem exec_rxdone_of_valid {p : Packet} {s : State} (h : takesRxdone s.regs = true)
    (hp : validPacket p = true) : exec (.rxdone p) s = succeed (deliver p s) :=
  (if_pos h).trans (if_pos hp)

theorem exec_rxdone_of_invalid {p : Packet} {s : State} (h : takesRxdone s.regs = true)
    (hp : validPacket p = false) : exec (.rxdone p) s = fail .checksum s :=
  (if_pos h).trans (if_neg (Bool.eq_false_iff.1 hp))

theorem exec_txndone_of_taken {s : State} (h : takesTxndone s.regs = true) :
    exec .txndone s = succeed s :=
  if_pos h

theorem exec_terr_of_taken {e : TErr} {s : State} (h : takesTerr s.regs = true) :
    exec (.terr e) s = fail (.transport e) s :=
  if_pos h

theorem takesRxdone_eq_false_iff {r : Regs} :
    takesRxdone r = false ↔ r.st ≠ .reading ∨ (r.kind ≠ .raw ∧ r.kind ≠ .vel) := by
  rw [Bool.eq_false_iff, ne_eq, takesRxdone_iff, not_and_or, not_or]

theorem takesTxndone_eq_false_iff {r : Regs} :
    takesTxndone r = false ↔ r.st ≠ .reading ∨ r.kind ≠ .probe := by
  rw [Bool.eq_false_iff, ne_eq, takesTxndone_iff, not_and_or]

theorem takesTerr_eq_false_iff {r : Regs} : takesTerr r = false ↔ r.st ≠ .reading := by
  rw [Bool.eq_false_iff, ne_eq, takesTerr_iff]

theorem deliver_of_raw {p : Packet} {s : State} (h : s.regs.kind = .raw) :
    deliver p s = (s.setV true).setM (extractRaw p) :=
  if_neg (by rw [h]; decide)

theorem deliver_of_vel {p : Packet} {s : State} (h : s.regs.kind = .vel) :
    deliver p s =
      ((s.setV true).setM (extractRaw p)).setVel (interp s.params.table (extractRaw p)) :=
  if_pos h

/-- Settles O29: the packet is delivered as the kind of the read asks, found invalid, or dropped. -/
theorem rxdoneDeliversOrFails : Obligations.RxdoneDeliversOrFails := by
  refine ⟨fun p s h => exec_of_not_eventTaken rfl (takesRxdone_eq_false_iff.2 h),
    fun p s hst => ⟨fun hkind hp => ?_, fun hkind hp => ?_, fun hkind hp => ?_⟩⟩
  · rw [exec_rxdone_of_valid (takesRxdone_iff.2 ⟨hst, .inl hkind⟩) hp, deliver_of_raw hkind]
    rfl
  · rw [exec_rxdone_of_valid (takesRxdone_iff.2 ⟨hst, .inr hkind⟩) hp, deliver_of_vel hkind]
    rfl
  · exact exec_rxdone_of_invalid (takesRxdone_iff.2 ⟨hst, hkind⟩) hp

/-- Settles O30: `TXNDONE` answers a probe and nothing else. -/
theorem txndoneEndsProbe : Obligations.TxndoneEndsProbe :=
  ⟨fun _ hst hkind => exec_txndone_of_taken (takesTxndone_iff.2 ⟨hst, hkind⟩),
    fun _ h => exec_of_not_eventTaken rfl (takesTxndone_eq_false_iff.2 h)⟩

/-- Settles O31: `TERR` is taken in `Reading` alone. -/
theorem terrRecordsTransportError : Obligations.TerrRecordsTransportError :=
  fun _ _ => ⟨fun h => exec_terr_of_taken (takesTerr_iff.2 h),
    fun h => exec_of_not_eventTaken rfl (takesTerr_eq_false_iff.2 h)⟩

/-- Settles O32: in each of the listed cases the event is not taken. -/
theorem unmatchedEventsAreDropped : Obligations.UnmatchedEventsAreDropped := by
  refine fun s p e => ⟨fun hst => ⟨?_, ?_, ?_⟩, fun hkind => ?_, fun hkind => ?_⟩
  · exact exec_of_not_eventTaken rfl (takesRxdone_eq_false_iff.2 (.inl hst))
  · exact exec_of_not_eventTaken rfl (takesTxndone_eq_false_iff.2 (.inl hst))
  · exact exec_of_not_eventTaken rfl (takesTerr_eq_false_iff.2 hst)
  · exact exec_of_not_eventTaken rfl (takesRxdone_eq_false_iff.2 (.inr (by simp [hkind])))
  · refine exec_of_not_eventTaken rfl (takesTxndone_eq_false_iff.2 (.inr ?_))
    rcases hkind with hkind | hkind <;> simp [hkind]

/-! ## What an instruction can do -/

/-- The request an accepted command emits (R101 to R104, R109). -/
def requestOf : Instr → TReq
  | .probe => .txn0
  | .readraw | .readvel => .read5
  | .abort => .cancel
  | .validate _ | .extract _ | .interp _ | .ack | .rxdone _ | .txndone | .terr _ => .none

/-- `Effect s i t`: the instruction `i` takes the state `s` to `t`, with the condition under which it
does. A command is refused or does its work (R56); an event is dropped or taken (R110). -/
inductive Effect (s : State) : Instr → State → Prop
  /-- `REJ_STATE` and no other effect (R56) -/
  | refused {i : Instr} (hi : isCommand i = true)
      (hst : opcodeAccepted (portCode i) s.regs.st = false) : Effect s i (s.respond .rejState)
  /-- no request outstanding that it answers (R110) -/
  | dropped {i : Instr} (hi : isCommand i = false) (htaken : eventTaken s.regs i = false) :
      Effect s i s.quiet
  /-- R72 -/
  | validated (p : Packet) (hst : s.regs.st = .idle) :
      Effect s (.validate p) ((s.setV (validPacket p)).respond .accept)
  /-- R73 -/
  | extracted (p : Packet) (hst : s.regs.st = .idle) :
      Effect s (.extract p) ((s.setM (extractRaw p)).respond .accept)
  /-- R87 -/
  | interpolated (m : Raw) (hst : s.regs.st = .idle) :
      Effect s (.interp m) ((s.setVel (interp s.params.table m)).respond .accept)
  /-- a start command (R101) -/
  | started {i : Instr} {k : Kind} (hi : startKind i = some k) (hst : s.regs.st = .idle) :
      Effect s i (((s.clearResults.setKind k).setSt .reading).acceptEmit (requestOf i))
  /-- R108 -/
  | acknowledged (hst : s.regs.st = .decoded ∨ s.regs.st = .failed) :
      Effect s .ack ((leave s).respond .accept)
  /-- R109 -/
  | aborted (hst : s.regs.st = .reading) :
      Effect s .abort (((s.setKind .none).setSt .idle).acceptEmit .cancel)
  /-- a valid packet (R105) -/
  | delivered {p : Packet} {t : State} (htaken : takesRxdone s.regs = true)
      (hp : validPacket p = true) (ht : succeed (deliver p s) = .next t) : Effect s (.rxdone p) t
  /-- an invalid packet (R105) -/
  | corrupted {p : Packet} {t : State} (htaken : takesRxdone s.regs = true)
      (hp : validPacket p = false) (ht : fail .checksum s = .next t) : Effect s (.rxdone p) t
  /-- the device acknowledged a probe (R106) -/
  | probed {t : State} (htaken : takesTxndone s.regs = true) (ht : succeed s = .next t) :
      Effect s .txndone t
  /-- the transport failed (R107) -/
  | lost {e : TErr} {t : State} (htaken : takesTerr s.regs = true)
      (ht : fail (.transport e) s = .next t) : Effect s (.terr e) t

/-- A command is refused where R56 says so, and otherwise does what its body says. -/
theorem Effect.of_command {i : Instr} {accepts : St → Bool} {s t u : State}
    (h : whenAccepted accepts s (.next u) = .next t) (hi : isCommand i = true)
    (hacc : accepts = opcodeAccepted (portCode i))
    (hu : accepts s.regs.st = true → Effect s i u) : Effect s i t := by
  rcases whenAccepted_cases h with ⟨ha, hb⟩ | ⟨ha, rfl⟩
  · cases hb
    exact hu ha
  · exact .refused hi (hacc ▸ ha)

/-- The commands up to opcode 6 are accepted in `Idle`. -/
theorem Effect.of_idle_command {i : Instr} {s t u : State}
    (h : whenAccepted acceptsStart s (.next u) = .next t) (hi : isCommand i = true)
    (hcode : portCode i ≤ 6) (hu : s.regs.st = .idle → Effect s i u) : Effect s i t :=
  .of_command h hi (acceptsStart_eq_opcodeAccepted hcode) fun ha => hu (acceptsStart_iff.1 ha)

theorem execRxdone_effect {p : Packet} {s t : State} (h : exec (.rxdone p) s = .next t) :
    Effect s (.rxdone p) t := by
  cases htaken : eventTaken s.regs (.rxdone p) with
  | false =>
    cases (exec_of_not_eventTaken rfl htaken).symm.trans h
    exact .dropped rfl htaken
  | true =>
    cases hp : validPacket p with
    | false => exact .corrupted htaken hp ((exec_rxdone_of_invalid htaken hp).symm.trans h)
    | true => exact .delivered htaken hp ((exec_rxdone_of_valid htaken hp).symm.trans h)

theorem execTxndone_effect {s t : State} (h : exec .txndone s = .next t) : Effect s .txndone t := by
  cases htaken : eventTaken s.regs .txndone with
  | false =>
    cases (exec_of_not_eventTaken rfl htaken).symm.trans h
    exact .dropped rfl htaken
  | true => exact .probed htaken ((exec_txndone_of_taken htaken).symm.trans h)

theorem execTerr_effect {e : TErr} {s t : State} (h : exec (.terr e) s = .next t) :
    Effect s (.terr e) t := by
  cases htaken : eventTaken s.regs (.terr e) with
  | false =>
    cases (exec_of_not_eventTaken rfl htaken).symm.trans h
    exact .dropped rfl htaken
  | true => exact .lost htaken ((exec_terr_of_taken htaken).symm.trans h)

/-- Whatever an instruction does is one of its effects. -/
theorem exec_effect {i : Instr} {s t : State} (h : exec i s = .next t) : Effect s i t := by
  cases i with
  | validate p => exact .of_idle_command h rfl (by simp [portCode]) (.validated p)
  | extract p => exact .of_idle_command h rfl (by simp [portCode]) (.extracted p)
  | interp m => exact .of_idle_command h rfl (by simp [portCode]) (.interpolated m)
  | probe | readraw | readvel => exact .of_idle_command h rfl (by simp [portCode]) (.started rfl)
  | ack =>
    exact .of_command h rfl acceptsAck_eq_opcodeAccepted fun ha =>
      .acknowledged (acceptsAck_iff.1 ha)
  | abort =>
    exact .of_command h rfl acceptsAbort_eq_opcodeAccepted fun ha =>
      .aborted (acceptsAbort_iff.1 ha)
  | rxdone p => exact execRxdone_effect h
  | txndone => exact execTxndone_effect h
  | terr e => exact execTerr_effect h

/-! ## The moves of `ST` (R100) -/

/-- The rows of R100 for commands are cases in which the command is accepted. -/
theorem nextSt_of_refused {r : Regs} {i : Instr} (hi : isCommand i = true)
    (hst : opcodeAccepted (portCode i) r.st = false) : nextSt r i = r.st := by
  unfold nextSt
  split <;> simp_all [isCommand, opcodeAccepted, portCode]

/-- The rows of R100 for events are cases in which the event is taken. -/
theorem nextSt_of_dropped {r : Regs} {i : Instr} (hi : isCommand i = false)
    (htaken : eventTaken r i = false) : nextSt r i = r.st := by
  unfold nextSt
  split <;> simp_all [isCommand, eventTaken, takesRxdone, takesTxndone, takesTerr]

theorem nextSt_of_startKind {r : Regs} {i : Instr} {k : Kind} (hi : startKind i = some k)
    (hst : r.st = .idle) : nextSt r i = .reading := by
  cases i with
  | probe | readraw | readvel => simp [nextSt, hst]
  | validate p | extract p | interp m | ack | abort | rxdone p | txndone | terr e => cases hi

theorem nextSt_rxdone_of_taken {r : Regs} (p : Packet) (h : takesRxdone r = true) :
    nextSt r (.rxdone p) = if validPacket p then .decoded else .failed := by
  obtain ⟨hst, hkind⟩ := takesRxdone_iff.1 h
  simp [nextSt, hst, hkind]

/-- Each effect moves `ST` as its row of R100 says. -/
theorem Effect.st_eq_nextSt {i : Instr} {s t : State} (h : Effect s i t) :
    t.regs.st = nextSt s.regs i := by
  cases h with
  | refused hi hst => exact (nextSt_of_refused hi hst).symm
  | dropped hi htaken => exact (nextSt_of_dropped hi htaken).symm
  | validated p hst | extracted p hst | interpolated m hst => simp [nextSt, hst]
  | started hi hst => exact (nextSt_of_startKind hi hst).symm
  | acknowledged hst => rcases hst with hst | hst <;> simp [nextSt, hst]
  | aborted hst => simp [nextSt, hst]
  | delivered htaken hp ht =>
    rw [nextSt_rxdone_of_taken _ htaken, if_pos hp, (succeed_cases ht).1]
  | corrupted htaken hp ht =>
    rw [nextSt_rxdone_of_taken _ htaken, if_neg (Bool.eq_false_iff.1 hp), fail_regs ht]
  | probed htaken ht =>
    obtain ⟨hst, hkind⟩ := takesTxndone_iff.1 htaken
    simp [nextSt, hst, hkind, (succeed_cases ht).1]
  | lost htaken ht => simp [nextSt, takesTerr_iff.1 htaken, fail_regs ht]

/-- Settles O34: an instruction has one of its effects; nothing else writes `ST` but reset. -/
theorem stateMachineFollowsTable : Obligations.StateMachineFollowsTable := by
  refine ⟨fun i s t h => (exec_effect h).st_eq_nextSt, fun d s t hd h => ?_, ?_, ?_⟩
  · cases d with
    | instr i => exact absurd rfl (hd i)
    | illegal | reserved | noEvent => cases h; rfl
  · rintro s _ ⟨⟩
    rfl
  · rintro s _ ⟨⟩
    rfl

/-! ## The transport requests (R111) -/

/-- What an instruction presented in `st` emits: its request where it is accepted. -/
def emitted (st : St) (i : Instr) : TReq :=
  if opcodeAccepted (portCode i) st then requestOf i else .none

theorem emitted_of_requestOf_none {i : Instr} (h : requestOf i = .none) (st : St) :
    emitted st i = .none := by
  rw [emitted, h, ite_self]

theorem emitted_of_startKind {i : Instr} {k : Kind} (h : startKind i = some k) :
    emitted .idle i = requestOf i := by
  cases i with
  | probe | readraw | readvel => rfl
  | validate p | extract p | interp m | ack | abort | rxdone p | txndone | terr e => cases h

theorem requestOf_of_event {i : Instr} (h : isCommand i = false) : requestOf i = .none := by
  cases i with
  | rxdone p | txndone | terr e => rfl
  | validate p | extract p | interp m | probe | readraw | readvel | ack | abort => cases h

theorem Effect.treq_eq_emitted {i : Instr} {s t : State} (h : Effect s i t) :
    t.ports.treq = emitted s.regs.st i := by
  cases h with
  | refused hi hst => rw [emitted, hst]; rfl
  | dropped hi htaken => exact (emitted_of_requestOf_none (requestOf_of_event hi) _).symm
  | validated p hst | extracted p hst | interpolated m hst | acknowledged hst =>
    exact (emitted_of_requestOf_none rfl _).symm
  | started hi hst => rw [hst, emitted_of_startKind hi]; rfl
  | aborted hst => rw [hst]; rfl
  | delivered htaken hp ht | probed htaken ht =>
    obtain ⟨_, hports, _⟩ := succeed_cases ht
    rw [hports, emitted_of_requestOf_none rfl]; rfl
  | corrupted htaken hp ht | lost htaken ht =>
    obtain ⟨_, hports, _⟩ := fail_frame ht
    rw [hports, emitted_of_requestOf_none rfl]; rfl

/-- A step that requests something took an instruction, which requests just that. -/
theorem step_treq_iff {s t : State} (h : step s = .next t) {P : TReq → Prop} (hnone : ¬ P .none) :
    P t.ports.treq ↔
      ∃ w i, s.nextTurn.1 = .wire w ∧ decode w = .instr i ∧ P (emitted s.regs.st i) := by
  rcases step_cases h with ⟨hturn, rfl⟩ | ⟨w, i, hturn, hd, hexec⟩ | ⟨w, hturn, hd, rfl⟩ |
    ⟨w, hturn, hd, rfl⟩ | ⟨w, hturn, hd, rfl⟩ | ⟨hturn, rfl⟩
  case inr.inl =>
    rw [(exec_effect hexec).treq_eq_emitted, (nextTurn_frame s).2.1]
    simp [hturn, hd]
  all_goals simp [*, Ports.silent]

theorem emitted_eq_iff {st : St} {i : Instr} {q : TReq} (hq : q ≠ .none) :
    emitted st i = q ↔ opcodeAccepted (portCode i) st = true ∧ requestOf i = q := by
  unfold emitted
  split <;> simp [*, hq.symm]

theorem emitted_eq_txn0_iff {st : St} {i : Instr} :
    emitted st i = .txn0 ↔ i = .probe ∧ st = .idle := by
  rw [emitted_eq_iff (by decide)]
  cases i <;> simp [requestOf, opcodeAccepted, portCode]

theorem emitted_eq_cancel_iff {st : St} {i : Instr} :
    emitted st i = .cancel ↔ i = .abort ∧ st = .reading := by
  rw [emitted_eq_iff (by decide)]
  cases i <;> simp [requestOf, opcodeAccepted, portCode]

theorem emitted_start_iff {st : St} {i : Instr} :
    emitted st i = .read5 ∨ emitted st i = .txn0 ↔ (startKind i).isSome = true ∧ st = .idle := by
  rw [emitted_eq_iff (by decide), emitted_eq_iff (by decide)]
  cases i <;> simp [requestOf, startKind, opcodeAccepted, portCode]

/-- Settles O35: a step emits what its instruction emits, and R101 to R104 and R109 say which that is. -/
theorem oneRequestPerAcceptedStart : Obligations.OneRequestPerAcceptedStart := by
  intro s t h
  refine ⟨?_, ?_, ?_⟩
  · rw [step_treq_iff h (P := fun q => q = .read5 ∨ q = .txn0) (by decide)]
    simp only [emitted_start_iff]
  · rw [step_treq_iff h (P := fun q => q = .txn0) (by decide)]
    simp [emitted_eq_txn0_iff]
  · rw [step_treq_iff h (P := fun q => q = .cancel) (by decide)]
    simp [emitted_eq_cancel_iff]

/-! ## The way into `Decoded` (R112) -/

/-- Settles O36: of the effects only a delivered packet and an answered probe enter `Decoded`. -/
theorem decodedOnlyFromValidPacket : Obligations.DecodedOnlyFromValidPacket := by
  intro i s t h hs ht hkind
  cases exec_effect h with
  | refused hi hst => exact absurd ht hs
  | dropped hi htaken => exact absurd ht hs
  | validated p hst | extracted p hst | interpolated m hst => exact absurd ht hs
  | started hi hst | acknowledged hst | aborted hst => cases ht
  | delivered htaken hp hsucceed =>
    refine ⟨_, rfl, hp, ?_, fun hvel => ?_⟩
    · rw [(succeed_cases hsucceed).1, deliver_regs]
    · rw [(succeed_cases hsucceed).1, deliver_regs, if_pos hvel]
  | corrupted htaken hp hfail => simp [fail_regs hfail] at ht
  | probed htaken hsucceed => exact absurd (takesTxndone_iff.1 htaken).2 hkind
  | lost htaken hfail => simp [fail_regs hfail] at ht

/-! ## The source's operations (R113) -/

/-- The registers of an operation that waits for its answer. -/
def Regs.waiting (k : Kind) : Regs :=
  { st := .reading, kind := k, v := none, m := none, vel := none, err := none, te := none }

/-- Two instructions presented are run in turn, each on the state with its own input taken. -/
theorem run_two {s u t : State} {i j : Instr}
    (hs : s.inbox = [.wire (encode i), .wire (encode j)])
    (hi : exec i { s with inbox := [.wire (encode j)] } = .next u)
    (hu : u.inbox = [.wire (encode j)]) (hj : exec j { u with inbox := [] } = .next t) :
    Host.Core.run core 2 s = .next t := by
  have hfirst : core.step s = .next u := (step_of_wire_instr hs (decode_encode i)).trans hi
  have hsecond : core.step u = .next t := (step_of_wire_instr hu (decode_encode j)).trans hj
  simp only [Host.Core.run, hfirst, hsecond]

/-- On an idle unit a start command leaves a waiting operation, and the next input is run on it. -/
theorem run_start_then {s : State} {i : Instr} {k : Kind} (hi : startKind i = some k)
    (hs : s.regs.st = .idle) (j : Instr) :
    ∃ u : State, u.regs = Regs.waiting k ∧ u.params = s.params ∧
      ∀ t, exec j u = .next t →
        Host.Core.run core 2 { s with inbox := [.wire (encode i), .wire (encode j)] } =
          .next t := by
  obtain ⟨q, hq⟩ := exec_eq_start hi
  exact ⟨{ s with regs := Regs.waiting k, ports := ⟨some .accept, q⟩, inbox := [] }, rfl, rfl,
    fun t ht => run_two rfl ((hq _).trans (start_of_idle hs)) rfl ht⟩

/-- The registers of a read of kind `k` that the packet `p` ended (R105). -/
def Regs.afterRead (table : CalTable) (p : Packet) (k : Kind) : Regs :=
  if validPacket p then
    { Regs.waiting k with
      st := .decoded
      v := some true
      m := some (extractRaw p)
      vel := if k = .vel then some (interp table (extractRaw p)) else none
      err := some .none }
  else { Regs.waiting k with st := .failed, v := some false, err := some .checksumFailed }

theorem Regs.afterRead_done (table : CalTable) (p : Packet) (k : Kind) :
    (Regs.afterRead table p k).st = .decoded ∨ (Regs.afterRead table p k).st = .failed := by
  unfold Regs.afterRead
  split
  · exact .inl rfl
  · exact .inr rfl

theorem exec_rxdone_of_waiting {k : Kind} (hk : k = .raw ∨ k = .vel) (p : Packet) {u : State}
    (hu : u.regs = Regs.waiting k) :
    ∃ t, exec (.rxdone p) u = .next t ∧ t.regs = Regs.afterRead u.params.table p k := by
  have htaken : takesRxdone u.regs = true := by
    rw [hu]
    exact takesRxdone_iff.2 ⟨rfl, hk⟩
  cases hp : validPacket p with
  | true =>
    refine ⟨_, exec_rxdone_of_valid htaken hp, ?_⟩
    rw [(succeed_cases rfl).1, deliver_regs, hu, Regs.afterRead, if_pos hp]
    rfl
  | false =>
    refine ⟨_, exec_rxdone_of_invalid htaken hp, ?_⟩
    rw [fail_regs (f := .checksum) rfl, hu, Regs.afterRead, if_neg (Bool.eq_false_iff.1 hp)]

/-- A read and its packet leave the registers of R105, and `ACK` then those of reset. -/
theorem run_read {s : State} {i : Instr} {k : Kind} (hi : startKind i = some k)
    (hk : k = .raw ∨ k = .vel) (hs : s.regs.st = .idle) (p : Packet) :
    ∃ t, Host.Core.run core 2
        { s with inbox := [.wire (encode i), .wire (encode (.rxdone p))] } = .next t ∧
      t.regs = Regs.afterRead s.params.table p k ∧
      ∃ u, exec .ack t = .next u ∧ u.regs = Regs.reset := by
  obtain ⟨u, hregs, hparams, hrun⟩ := run_start_then hi hs (.rxdone p)
  obtain ⟨t, hexec, ht⟩ := exec_rxdone_of_waiting hk p hregs
  rw [hparams] at ht
  have hdone : t.regs.st = .decoded ∨ t.regs.st = .failed := by
    rw [ht]
    exact Regs.afterRead_done _ p k
  exact ⟨t, hrun t hexec, ht, _, exec_ack_of_done hdone, rfl⟩

theorem clientResult_afterRead_vel (table : CalTable) (p : Packet) :
    (Regs.afterRead table p .vel).clientResult =
      some (if validPacket p then .velocity (interp table (extractRaw p)) else .checksumFailed) := by
  unfold Regs.afterRead
  split <;> rfl

theorem clientResult_afterRead_raw (table : CalTable) (p : Packet) :
    (Regs.afterRead table p .raw).clientResult =
      some (if validPacket p then .measurement (extractRaw p) else .checksumFailed) := by
  unfold Regs.afterRead
  split <;> rfl

/-- Settles O46: the host reads the result of its operation from the registers the packet left. -/
theorem readOperationsReturnSourceResults : Obligations.ReadOperationsReturnSourceResults := by
  refine fun s p hs => ⟨?_, ?_⟩
  · obtain ⟨t, hrun, ht, hack⟩ := run_read (i := .readvel) rfl (.inr rfl) hs p
    exact ⟨t, hrun, ht ▸ clientResult_afterRead_vel _ p, hack⟩
  · obtain ⟨t, hrun, ht, hack⟩ := run_read (i := .readraw) rfl (.inl rfl) hs p
    exact ⟨t, hrun, ht ▸ clientResult_afterRead_raw _ p, hack⟩

/-- A failed operation with `ERR = TRANSPORT` returns `TE`, whichever operation it was. -/
theorem clientResult_of_transport {r : Regs} {e : TErr} (hst : r.st = .failed)
    (herr : r.err = some .transport) (hte : r.te = some e) :
    r.clientResult = some (.transportError e) := by
  simp [Regs.clientResult, hst, herr, hte]

/-- Settles O47: the answer is taken by the waiting operation, of whatever kind for `TERR`. -/
theorem probeAndTransportErrorsReturnSourceResults :
    Obligations.ProbeAndTransportErrorsReturnSourceResults := by
  refine fun s hs => ⟨?_, fun i e hi => ?_⟩
  · obtain ⟨u, hregs, _, hrun⟩ := run_start_then (i := .probe) rfl hs .txndone
    have htaken : takesTxndone u.regs = true := by rw [hregs]; rfl
    refine ⟨_, hrun _ (exec_txndone_of_taken htaken), ?_⟩
    rw [(succeed_cases rfl).1, hregs]
    rfl
  · obtain ⟨k, hk⟩ := Option.isSome_iff_exists.1 hi
    obtain ⟨u, hregs, _, hrun⟩ := run_start_then hk hs (.terr e)
    have htaken : takesTerr u.regs = true := by rw [hregs]; rfl
    exact ⟨_, hrun _ (exec_terr_of_taken htaken), clientResult_of_transport rfl rfl rfl⟩

end Sys2Proof.Machine
end

section
/-! PROOFS. The exceptions (spec/60_exceptions.md): every step answers, a unit with nothing presented
waits without limit, how `Failed` is entered and what it accepts, and in which pairings the order of a
command and an event is visible. -/

namespace Sys2Proof.Machine

open Sys2Proof.Laws.EncodedFields (portCode)

/-! ## Commands refused, events taken -/

/-- A command in a state that R56 does not list for it is answered `REJ_STATE`. -/
theorem exec_of_not_opcodeAccepted {i : Instr} {s : State} (hi : isCommand i = true)
    (h : opcodeAccepted (portCode i) s.regs.st = false) :
    exec i s = .next (s.respond .rejState) := by
  obtain ⟨u, hexec, -⟩ := exec_command hi s
  rw [hexec, whenAccepted_of_false h]

theorem reading_of_eventTaken {r : Regs} {i : Instr} (h : eventTaken r i = true) :
    r.st = .reading := by
  cases i with
  | rxdone p => exact (takesRxdone_iff.1 h).1
  | txndone => exact (takesTxndone_iff.1 h).1
  | terr e => exact takesTerr_iff.1 h
  | validate p | extract p | interp m | probe | readraw | readvel | ack | abort => cases h

theorem eventTaken_eq_false {r : Regs} (h : r.st ≠ .reading) (i : Instr) :
    eventTaken r i = false :=
  Bool.eq_false_iff.2 (mt reading_of_eventTaken h)

/-- An event that is taken ends the operation (R105 to R107). -/
theorem nextSt_of_eventTaken {r : Regs} {i : Instr} (h : eventTaken r i = true) :
    nextSt r i = .decoded ∨ nextSt r i = .failed := by
  cases i with
  | rxdone p =>
    rw [nextSt_rxdone_of_taken p h]
    cases validPacket p <;> simp
  | txndone =>
    obtain ⟨hst, hkind⟩ := takesTxndone_iff.1 h
    simp [nextSt, hst, hkind]
  | terr e => simp [nextSt, takesTerr_iff.1 h]
  | validate p | extract p | interp m | probe | readraw | readvel | ack | abort => cases h

theorem done_of_eventTaken {i : Instr} {s t : State} (htaken : eventTaken s.regs i = true)
    (h : exec i s = .next t) : t.regs.st = .decoded ∨ t.regs.st = .failed := by
  rw [(exec_effect h).st_eq_nextSt]
  exact nextSt_of_eventTaken htaken

/-! ## Every step answers (R120) -/

/-- Each branch of each instruction's meaning is a next state. -/
theorem exec_answers (i : Instr) (s : State) : ∃ t, exec i s = .next t := by
  cases hi : isCommand i with
  | true =>
    obtain ⟨u, hexec, -⟩ := exec_command hi s
    cases ha : opcodeAccepted (portCode i) s.regs.st with
    | true => exact ⟨u, hexec.trans (whenAccepted_of_true ha)⟩
    | false => exact ⟨_, exec_of_not_opcodeAccepted hi ha⟩
  | false =>
    cases htaken : eventTaken s.regs i with
    | false => exact ⟨_, exec_of_not_eventTaken hi htaken⟩
    | true =>
      cases i with
      | rxdone p =>
        cases hp : validPacket p with
        | true => exact ⟨_, exec_rxdone_of_valid htaken hp⟩
        | false => exact ⟨_, exec_rxdone_of_invalid htaken hp⟩
      | txndone => exact ⟨_, exec_txndone_of_taken htaken⟩
      | terr e => exact ⟨_, exec_terr_of_taken htaken⟩
      | validate p | extract p | interp m | probe | readraw | readvel | ack | abort => cases hi

theorem runDecoded_answers (d : Decoded) (s : State) : ∃ t, runDecoded d s = .next t := by
  cases d with
  | instr i => exact exec_answers i s
  | illegal | reserved | noEvent => exact ⟨_, rfl⟩

theorem takeTurn_answers (turn : Turn) (s : State) : ∃ t, takeTurn turn s = .next t := by
  cases turn with
  | wire w => exact runDecoded_answers (decode w) s
  | nothing | rst => exact ⟨_, rfl⟩

/-- Settles O42: whatever the turn is, taking it answers a next state. -/
theorem everyStepAnswers : Obligations.EveryStepAnswers :=
  fun s => takeTurn_answers s.nextTurn.1 s.nextTurn.2

/-! ## No timeout (R131, R133) -/

theorem step_of_empty_inbox {s : State} (h : s.inbox = []) : step s = .next s.quiet := by
  have hturn : s.nextTurn = (.nothing, s) := by
    unfold State.nextTurn
    rw [h]
  rw [step, hturn]
  rfl

/-- Settles O43, by induction on the number of steps: each only silences the ports. -/
theorem waitsWithoutLimit : Obligations.WaitsWithoutLimit := by
  intro n
  induction n with
  | zero => exact fun s h => ⟨s, rfl, rfl, h⟩
  | succ n ih =>
    intro s h
    have hstep : core.step s = .next s.quiet := step_of_empty_inbox h
    simp only [Host.Core.run, hstep]
    exact ih s.quiet h

/-! ## `Failed` (R127) -/

theorem m_vel_unwritten_of_failed {s : State} (hs : s.Inv) (hst : s.regs.st = .failed) :
    s.regs.m = none ∧ s.regs.vel = none := by
  unfold State.Inv at hs
  rw [hst] at hs
  obtain ⟨hm, hvel, -⟩ := hs
  exact ⟨hm, hvel⟩

theorem done_of_failed {s : State} (h : s.regs.st = .failed) (look : Nat) :
    (s.pins look).done = 1 :=
  bit_eq_one_iff.2 (doneFlag_iff.2 (.inr h))

/-- Of the effects only a corrupted packet and a lost request enter `Failed`. -/
theorem Effect.cause_of_failed {i : Instr} {s t : State} (h : Effect s i t)
    (hs : s.regs.st ≠ .failed) (ht : t.regs.st = .failed) :
    (∃ e, i = .terr e ∧
        t.regs = { s.regs with st := .failed, err := some .transport, te := some e }) ∨
      (∃ p, i = .rxdone p ∧ validPacket p = false ∧
        t.regs = { s.regs with st := .failed, v := some false, err := some .checksumFailed }) := by
  cases h with
  | refused hi hst | dropped hi htaken => exact absurd ht hs
  | validated p hst | extracted p hst | interpolated m hst => exact absurd ht hs
  | started hi hst | acknowledged hst | aborted hst => cases ht
  | delivered htaken hp hsucceed | probed htaken hsucceed =>
    simp [(succeed_cases hsucceed).1] at ht
  | corrupted htaken hp hfail => exact .inr ⟨_, rfl, hp, fail_regs hfail⟩
  | lost htaken hfail => exact .inl ⟨_, rfl, fail_regs hfail⟩

theorem opcodeAccepted_failed_iff {i : Instr} (hi : isCommand i = true) :
    opcodeAccepted (portCode i) .failed = true ↔ i = .ack := by
  cases i with
  | validate p | extract p | interp m | probe | readraw | readvel | ack | abort =>
    simp [opcodeAccepted, portCode]
  | rxdone p | txndone | terr e => cases hi

/-- Settles O33: the two causes of a failure; R24 has `M` and `VEL` unwritten in `Failed`; there `ACK`
alone is accepted and no event is awaited. -/
theorem failedEntryIsExact : Obligations.FailedEntryIsExact := by
  refine ⟨fun i s t h hs ht => ⟨(exec_effect h).cause_of_failed hs ht, done_of_failed ht,
    fun hinv => m_vel_unwritten_of_failed (exec_inv h hinv) ht⟩, fun i s hst hne => ?_⟩
  cases hi : isCommand i with
  | true =>
    refine exec_of_not_opcodeAccepted hi (Bool.eq_false_iff.2 ?_)
    rw [hst, ne_eq, opcodeAccepted_failed_iff hi]
    exact hne
  | false =>
    refine exec_of_not_eventTaken hi (eventTaken_eq_false ?_ i)
    rw [hst]
    decide

/-! ## The order of a command and an event (R126 item 3) -/

theorem deliver_with_ports (p : Packet) (s : State) (ports : Ports) :
    deliver p { s with ports := ports } = { deliver p s with ports := ports } := by
  unfold deliver
  by_cases hvel : s.regs.kind = .vel
  · rw [if_pos hvel, if_pos hvel]
    rfl
  · rw [if_neg hvel, if_neg hvel]
    rfl

/-- The step ports are outputs: no instruction reads what they carried before. -/
theorem exec_with_ports (i : Instr) (s : State) (ports : Ports) :
    exec i { s with ports := ports } = exec i s := by
  cases i with
  | rxdone p =>
    change execRxdone p _ = execRxdone p s
    unfold execRxdone
    rw [deliver_with_ports]
    rfl
  | validate p | extract p | interp m | probe | readraw | readvel | ack | abort | txndone
  | terr e => rfl

/-- The response to a command says whether R56 lists the present state for it. -/
theorem exec_command_resp_iff {i : Instr} {s t : State} (hi : isCommand i = true)
    (h : exec i s = .next t) :
    t.ports.resp = some .accept ↔ opcodeAccepted (portCode i) s.regs.st = true := by
  obtain ⟨u, hexec, hresp, -⟩ := exec_command hi s
  rcases whenAccepted_cases (hexec.symm.trans h) with ⟨ha, hu⟩ | ⟨ha, rfl⟩
  · cases hu
    exact iff_of_true hresp ha
  · exact iff_of_false (by simp) (Bool.eq_false_iff.1 ha)

theorem startKind_ne_none {i : Instr} {k : Kind} (h : startKind i = some k) : k ≠ .none := by
  cases i with
  | probe | readraw | readvel => cases h; decide
  | validate p | extract p | interp m | ack | abort | rxdone p | txndone | terr e => cases h

/-- A waiting operation takes the events that answer its request. -/
theorem eventTaken_waiting {k : Kind} (hk : k ≠ .none) (i : Instr) :
    eventTaken (Regs.waiting k) i = answers k i := by
  cases i with
  | terr e => exact (bne_iff_ne.2 hk).symm
  | validate p | extract p | interp m | probe | readraw | readvel | ack | abort | rxdone p
  | txndone => rfl

theorem exec_start_regs {i : Instr} {k : Kind} {s t : State} (hi : startKind i = some k)
    (hs : s.regs.st = .idle) (h : exec i s = .next t) : t.regs = Regs.waiting k := by
  obtain ⟨q, hq⟩ := exec_eq_start hi
  cases (start_of_idle hs).symm.trans ((hq s).symm.trans h)
  rfl

/-- A command makes the unit take an event only by starting the operation that the event answers. -/
theorem eventTaken_after_command_iff {c e : Instr} {s t : State} (hc : isCommand c = true)
    (h : exec c s = .next t) (hdropped : eventTaken s.regs e = false) :
    eventTaken t.regs e = true ↔
      s.regs.st = .idle ∧ ∃ k, startKind c = some k ∧ answers k e = true := by
  refine ⟨fun htaken => ?_, fun ⟨hidle, k, hk, hanswers⟩ => ?_⟩
  · have hreading : t.regs.st = .reading := reading_of_eventTaken htaken
    cases exec_effect h with
    | refused hi hst | dropped hi _ => exact absurd htaken (Bool.eq_false_iff.1 hdropped)
    | validated p hst | extracted p hst | interpolated m hst => cases hst.symm.trans hreading
    | started hi hst =>
      exact ⟨hst, _, hi, (eventTaken_waiting (startKind_ne_none hi) e).symm.trans htaken⟩
    | acknowledged hst | aborted hst => cases hreading
    | delivered | corrupted | probed | lost => cases hc
  · rw [exec_start_regs hk hidle h, eventTaken_waiting (startKind_ne_none hk), hanswers]

/-- The registers tell an event that was taken from one that was dropped. -/
theorem exec_event_regs_ne_iff {e : Instr} {s t : State} (he : isCommand e = false)
    (h : exec e s = .next t) : t.regs ≠ s.regs ↔ eventTaken s.regs e = true := by
  cases htaken : eventTaken s.regs e with
  | true =>
    refine iff_of_true (fun heq => ?_) rfl
    have hreading := reading_of_eventTaken htaken
    rw [← heq] at hreading
    rcases done_of_eventTaken htaken h with hdone | hdone <;> cases hdone.symm.trans hreading
  | false =>
    cases (exec_of_not_eventTaken he htaken).symm.trans h
    simp

/-- The commands that are neither `ACK` nor `ABORT` are accepted in `Idle` only (R56). -/
theorem opcodeAccepted_eq_false {c : Instr} {st : St} (hc : isCommand c = true)
    (hne : ¬ (c = .abort ∨ c = .ack)) (hst : st ≠ .idle) :
    opcodeAccepted (portCode c) st = false := by
  cases c with
  | validate p | extract p | interp m | probe | readraw | readvel =>
    simp [opcodeAccepted, portCode, hst]
  | ack | abort => simp at hne
  | rxdone p | txndone | terr e => cases hc

/-- `ABORT` is accepted in `Reading` only, `ACK` only when the operation has ended. -/
theorem opcodeAccepted_reading_ne_done {c : Instr} {st : St} (hc : c = .abort ∨ c = .ack)
    (hst : st = .decoded ∨ st = .failed) :
    opcodeAccepted (portCode c) .reading ≠ opcodeAccepted (portCode c) st := by
  rcases hc with rfl | rfl <;> rcases hst with rfl | rfl <;> decide

theorem commandThenEvent_eq {s a t : State} {c e : Instr} (hc : exec c s = .next a)
    (he : exec e a = .next t) :
    commandThenEvent s (.instr c) (.instr e) = some (t.regs, a.ports.resp) := by
  simp only [commandThenEvent, runDecoded, hc, he]

theorem eventThenCommand_eq {s b t : State} {c e : Instr} (he : exec e s = .next b)
    (hc : exec c b = .next t) :
    eventThenCommand s (.instr c) (.instr e) = some (t.regs, t.ports.resp) := by
  simp only [eventThenCommand, runDecoded, he, hc]

section
variable {s : State} {c e : Instr} (hc : isCommand c = true)
include hc

/-- Taken first, the event is dropped and leaves the command as it is; so the order shows exactly when
the event is taken after the command. -/
theorem order_visible_iff_of_dropped (he : isCommand e = false)
    (hdropped : eventTaken s.regs e = false) :
    commandThenEvent s (.instr c) (.instr e) ≠ eventThenCommand s (.instr c) (.instr e) ↔
      s.regs.st = .idle ∧ ∃ k, startKind c = some k ∧ answers k e = true := by
  obtain ⟨a, ha⟩ := exec_answers c s
  obtain ⟨t, ht⟩ := exec_answers e a
  have hdrop : exec e s = .next s.quiet := exec_of_not_eventTaken he hdropped
  have hafter : exec c s.quiet = .next a := (exec_with_ports c s _).trans ha
  rw [← eventTaken_after_command_iff hc ha hdropped, ← exec_event_regs_ne_iff he ht,
    commandThenEvent_eq ha ht, eventThenCommand_eq hdrop hafter]
  simp only [ne_eq, Option.some.injEq, Prod.mk.injEq, and_true]

/-- The end of the operation shows in the response to `ABORT` and to `ACK`. -/
theorem order_visible_of_taken (htaken : eventTaken s.regs e = true)
    (hcase : c = .abort ∨ c = .ack) :
    commandThenEvent s (.instr c) (.instr e) ≠ eventThenCommand s (.instr c) (.instr e) := by
  obtain ⟨a, ha⟩ := exec_answers c s
  obtain ⟨t, ht⟩ := exec_answers e a
  obtain ⟨b, hb⟩ := exec_answers e s
  obtain ⟨u, hu⟩ := exec_answers c b
  rw [commandThenEvent_eq ha ht, eventThenCommand_eq hb hu]
  intro heq
  obtain ⟨-, hresp⟩ := Prod.mk.inj (Option.some.inj heq)
  have hfirst := exec_command_resp_iff hc ha
  rw [hresp, exec_command_resp_iff hc hu, reading_of_eventTaken htaken] at hfirst
  exact opcodeAccepted_reading_ne_done hcase (done_of_eventTaken htaken hb)
    (Bool.eq_iff_iff.2 hfirst.symm)

/-- Every other command is refused before the end of the operation and after it. -/
theorem order_hidden_of_taken (htaken : eventTaken s.regs e = true)
    (hcase : ¬ (c = .abort ∨ c = .ack)) :
    commandThenEvent s (.instr c) (.instr e) = eventThenCommand s (.instr c) (.instr e) := by
  obtain ⟨b, hb⟩ := exec_answers e s
  have hreading : s.regs.st ≠ .idle := by
    rw [reading_of_eventTaken htaken]
    decide
  have hdone : b.regs.st ≠ .idle := by
    rcases done_of_eventTaken htaken hb with h | h <;> rw [h] <;> decide
  have hbefore := exec_of_not_opcodeAccepted hc (opcodeAccepted_eq_false hc hcase hreading)
  have hafter := exec_of_not_opcodeAccepted hc (opcodeAccepted_eq_false hc hcase hdone)
  have hevent : exec e (s.respond .rejState) = .next b := (exec_with_ports e s _).trans hb
  rw [commandThenEvent_eq hbefore hevent, eventThenCommand_eq hb hafter]
  rfl

end

/-- Settles O45: an event is taken in `Reading` only, which leaves one disjunct of `orderVisible` for
each of the two cases. -/
theorem orderVisibleExactlyInThreePairings : Obligations.OrderVisibleExactlyInThreePairings := by
  intro s c e hc he
  cases htaken : eventTaken s.regs e with
  | false =>
    rw [order_visible_iff_of_dropped hc he htaken]
    simp [orderVisible, htaken]
  | true =>
    have hreading := reading_of_eventTaken htaken
    have hvisible : orderVisible s.regs c e ↔ c = .abort ∨ c = .ack := by
      simp [orderVisible, htaken, hreading]
    rw [hvisible]
    exact ⟨fun hne => by_contra fun hcase => hne (order_hidden_of_taken hc htaken hcase),
      order_visible_of_taken hc htaken⟩

end Sys2Proof.Machine
end

section
/-! PROOFS. Reset and hazards (spec/70_reset_and_hazards.md): what `rst` does in any state, and that under
a transport that keeps its duties an event ends the operation. -/

namespace Sys2Proof.Machine

/-! ## Reset (R140) -/

theorem nextTurn_of_rst {s : State} {rest : List Input} (h : s.inbox = .rst :: rest) :
    s.nextTurn = (.rst, { s with inbox := rest }) := by
  unfold State.nextTurn
  rw [h]

theorem step_of_rst {s : State} {rest : List Input} (h : s.inbox = .rst :: rest) :
    step s = .next { s with inbox := rest }.resetUnit := by
  rw [step, nextTurn_of_rst h]
  rfl

/-- Settles O38: the step is `resetUnit`, which writes the registers of R23 and silences the ports. -/
theorem resetRestoresEveryRegister : Obligations.ResetRestoresEveryRegister :=
  fun _ _ h => step_of_rst h

/-! ## Events under an honest transport (R147, R110) -/

/-- In `Reading`, the answer to the outstanding request is taken. -/
theorem eventTaken_of_answers {r : Regs} {i : Instr} (hst : r.st = .reading)
    (h : answers r.kind i = true) : eventTaken r i = true := by
  cases i with
  | rxdone p => exact takesRxdone_iff.2 ⟨hst, by simpa [answers] using h⟩
  | txndone => exact takesTxndone_iff.2 ⟨hst, by simpa [answers] using h⟩
  | terr e => exact takesTerr_iff.2 hst
  | validate p | extract p | interp m | probe | readraw | readvel | ack | abort => cases h

/-- An event that is taken ends the operation in one of two ways: with a success, before which only a
delivered packet is written, or with a failure (R105 to R107). -/
theorem exec_of_eventTaken {i : Instr} {s : State} (h : eventTaken s.regs i = true) :
    (∃ u, u.regs.kind = s.regs.kind ∧ exec i s = succeed u) ∨ ∃ f, exec i s = fail f s := by
  cases i with
  | rxdone p =>
    cases hp : validPacket p with
    | true => exact .inl ⟨_, by rw [deliver_regs], exec_rxdone_of_valid h hp⟩
    | false => exact .inr ⟨_, exec_rxdone_of_invalid h hp⟩
  | txndone => exact .inl ⟨_, rfl, exec_txndone_of_taken h⟩
  | terr e => exact .inr ⟨_, exec_terr_of_taken h⟩
  | validate p | extract p | interp m | probe | readraw | readvel | ack | abort => cases h

/-- Both ways to end an operation write `ERR` and leave `KIND` as it was. -/
theorem kind_err_of_eventTaken {i : Instr} {s t : State} (htaken : eventTaken s.regs i = true)
    (h : exec i s = .next t) : t.regs.kind = s.regs.kind ∧ t.regs.err.isSome = true := by
  rcases exec_of_eventTaken htaken with ⟨u, hkind, hexec⟩ | ⟨f, hexec⟩
  · rw [(succeed_cases (hexec.symm.trans h)).1]
    exact ⟨hkind, rfl⟩
  · rw [fail_regs (hexec.symm.trans h)]
    cases f <;> exact ⟨rfl, rfl⟩

/-- Settles O49: the duties of the transport make the event one that is taken, and taking it ends the
operation. -/
theorem honestEventEndsOperation : Obligations.HonestEventEndsOperation := by
  intro s e rest i hinbox hd hhonest
  obtain ⟨hst, hanswers⟩ := hhonest e rest i hinbox hd
  obtain ⟨t, hexec⟩ := exec_answers i { s with inbox := rest }
  have htaken : eventTaken { s with inbox := rest }.regs i = true :=
    eventTaken_of_answers hst hanswers
  have hdone := done_of_eventTaken htaken hexec
  have hkind_err := kind_err_of_eventTaken htaken hexec
  exact ⟨t, (step_of_wire_instr hinbox hd).trans hexec, doneFlag_iff.2 hdone, hkind_err⟩

end Sys2Proof.Machine
end

section
/-! PROOFS. The outputs of an unwritten register and of a step that answered no command (R11, U10):
what they show is the model's choice, log entries 6 and 7. -/

namespace Sys2Proof.Machine

/-- What a register with nothing to show puts out is a matter of the look. -/
theorem shown_eq_of_none {α : Type} (unwritten : Nat → α) (look : Nat) {r r' : Option α}
    (h : r = none) (h' : r' = none) : shown unwritten look r = shown unwritten look r' := by
  rw [h, h']

/-- Settles O51: each of the six outputs is `shown` of its register, or of the register's code. -/
theorem unwrittenPinsDependOnLookAlone : Obligations.UnwrittenPinsDependOnLookAlone := by
  intro s s' look
  refine ⟨fun h h' => ?v, fun h h' => ?m, fun h h' => ?vel, fun h h' => ?err, fun h h' => ?te,
    fun h h' => ?resp⟩
  case m | vel | te => exact shown_eq_of_none _ look h h'
  case v | err | resp =>
    exact shown_eq_of_none _ look (Option.map_eq_none_iff.2 h) (Option.map_eq_none_iff.2 h')

end Sys2Proof.Machine
end

section
/-! PROOFS. The binary32 operations (R85, log 9) where the exact result is above the largest finite
magnitude, and on operands that are not finite. -/

namespace Sys2Proof.Machine

/-! ## Rounding at the top of the range -/

/-- Less than half a unit above `m`, a number is not rounded above `m`. -/
theorem roundHalfEven_le_of_two_mul_lt {n d m : Nat} (hd : 0 < d) (h : 2 * n < (2 * m + 1) * d) :
    roundHalfEven n d ≤ m := by
  by_contra! hlt
  have hmul := Nat.mul_le_mul_right d hlt
  have herr := (roundHalfEven_error n hd).1
  have hle := le_abs_self ((roundHalfEven n d : Int) * d - n)
  rw [Nat.succ_mul] at hmul
  zify at *
  linarith

/-- From half a unit above an odd `m` on, a number is rounded above `m`: a tie goes to the even one. -/
theorem lt_roundHalfEven_of_odd {n d m : Nat} (hd : 0 < d) (hodd : m % 2 = 1)
    (h : (2 * m + 1) * d ≤ 2 * n) : m < roundHalfEven n d := by
  obtain ⟨herr, heven⟩ := roundHalfEven_error n hd
  have hle := neg_le_abs ((roundHalfEven n d : Int) * d - n)
  by_contra! hge
  rcases hge.lt_or_eq with hlt | heq
  · have hmul := Nat.mul_le_mul_right d hlt
    rw [Nat.succ_mul] at hmul
    zify at *
    linarith
  · rw [heq] at herr heven hle
    have htie : 2 * |(m : Int) * d - n| = d := by
      zify at h
      linarith
    have := heven htie
    omega

/-- From the largest finite value on, the shift is at least that of this value. -/
theorem le_shiftOf_of_top {n d : Nat} (hd : 0 < d) (h : (2 ^ 24 - 1) * (d * 2 ^ 253) ≤ n) :
    253 ≤ shiftOf n d := by
  by_contra! hlt
  have hupper := lt_spacings_shiftOf n hd
  have hpow : 2 ^ shiftOf n d ≤ 2 ^ 252 := Nat.pow_le_pow_right (by decide) (by omega)
  have hstep := Nat.mul_le_mul_left (2 ^ 24) (Nat.mul_le_mul_left d hpow)
  omega

/-- Nearer to the largest finite value than to the next step above it. -/
theorem roundBits_eq_largest {n d : Nat} (hd : 0 < d) (hlow : (2 ^ 24 - 1) * (d * 2 ^ 253) ≤ n)
    (hhigh : 2 * n < (2 ^ 25 - 1) * (d * 2 ^ 253)) : roundBits n d = 0x7F7FFFFF := by
  have hpos : 0 < d * 2 ^ 253 := Nat.mul_pos hd (Nat.two_pow_pos _)
  have hshift : shiftOf n d = 253 :=
    le_antisymm (shiftOf_le hd (by omega)) (le_shiftOf_of_top hd hlow)
  have hsig : significandOf n d = 2 ^ 24 - 1 := by
    rw [significandOf, hshift]
    exact le_antisymm (roundHalfEven_le_of_two_mul_lt hpos hhigh) (le_roundHalfEven hpos hlow)
  have hsk : IsSignificand (shiftOf n d) (significandOf n d) := by
    rw [hshift, hsig]
    exact ⟨by decide, .inr (by decide), by decide⟩
  rw [roundBits_eq hsk, hshift, hsig]
  rfl

/-- From half a step above the largest finite value on. -/
theorem roundBits_eq_infinite {n d : Nat} (hd : 0 < d)
    (h : (2 ^ 25 - 1) * (d * 2 ^ 253) ≤ 2 * n) : roundBits n d = 0x7F800000 := by
  have hpos (s : Nat) : 0 < d * 2 ^ s := Nat.mul_pos hd (Nat.two_pow_pos s)
  have hbits : ¬ shiftOf n d * 2 ^ 23 + significandOf n d < 0x7F800000 := by
    have hshift : 253 ≤ shiftOf n d := le_shiftOf_of_top hd (by omega)
    rcases hshift.lt_or_eq with hlt | htop
    · have hnormal : 2 ^ 23 ≤ significandOf n d :=
        le_roundHalfEven (hpos _) (spacings_shiftOf_le hd (by omega))
      omega
    · have hcarry : 2 ^ 24 - 1 < significandOf n d := by
        rw [significandOf, ← htop]
        exact lt_roundHalfEven_of_odd (hpos 253) (by decide) h
      omega
  exact if_neg hbits

theorem maxFinite_mul_units (d : Nat) :
    maxFinite * (d * one) = ((2 ^ 24 - 1) * (d * 2 ^ 253) : Nat) := by
  rw [maxFinite, one]
  push_cast
  ring

/-- `overflowFrom` is not a whole number of the largest spacings, but twice it is. -/
theorem two_mul_overflowFrom_mul_units (d : Nat) :
    2 * (overflowFrom * (d * one)) = ((2 ^ 25 - 1) * (d * 2 ^ 253) : Nat) := by
  rw [overflowFrom, one]
  push_cast
  ring

/-- Every operation packs the rounding of its exact result, so at the top of the range each of them
gives the largest finite value or infinity. -/
theorem roundsAtTop_packF32_roundBits (sign : Bool) {n d : Nat} (hd : 0 < d) :
    roundsAtTop (withSign sign ((n : Rat) / d / one)) (packF32 sign (roundBits n d)) := by
  have hden : (0 : Rat) < d * one := mul_pos (by exact_mod_cast hd) cast_one_units_pos
  have hnonneg : (0 : Rat) ≤ n / (d * one) := div_nonneg (Nat.cast_nonneg n) hden.le
  have hsign (h : 0 < (n : Rat) / (d * one)) :
      decide (withSign sign ((n : Rat) / (d * one)) < 0) = sign := by
    cases sign
    · exact decide_eq_false hnonneg.not_gt
    · exact decide_eq_true (neg_neg_of_pos h)
  rw [div_div]
  unfold roundsAtTop
  rw [abs_withSign, abs_of_nonneg hnonneg]
  refine ⟨fun hlow hhigh => ?_, fun htop => ?_⟩
  · rw [hsign (lt_trans (by norm_num [maxFinite]) hlow)]
    rw [lt_div_iff₀ hden, maxFinite_mul_units, Nat.cast_lt] at hlow
    rw [div_lt_iff₀ hden, ← mul_lt_mul_iff_right₀ two_pos, two_mul_overflowFrom_mul_units] at hhigh
    rw [roundBits_eq_largest hd hlow.le (by exact_mod_cast hhigh)]
  · rw [hsign (lt_of_lt_of_le (by norm_num [overflowFrom]) htop), infinity]
    rw [le_div_iff₀ hden, ← mul_le_mul_iff_right₀ two_pos, two_mul_overflowFrom_mul_units] at htop
    rw [roundBits_eq_infinite hd (by exact_mod_cast htop)]

/-! ## Exact results above the largest finite magnitude -/

/-- A finite value is its own rounding. -/
theorem roundsAtTop_valueOf {x : F32} (h : isFinite x = true) : roundsAtTop (valueOf x) x := by
  have hround := roundsAtTop_packF32_roundBits (signOf x) (n := unitsOf x) one_pos
  rwa [packF32_roundBits_unitsOf h, Nat.cast_one, div_one, ← valueOf_eq] at hround

theorem roundsAtTop_zero (x : F32) : roundsAtTop 0 x := by
  norm_num [roundsAtTop, maxFinite, overflowFrom]

theorem valueOf_add_valueOf (a b : F32) :
    valueOf a + valueOf b = ((signedUnits a + signedUnits b : Int) : Rat) / one := by
  rw [valueOf, valueOf, ← add_div, Int.cast_add]

/-- A whole number of units by its sign and magnitude, as `sumF32` rounds it. -/
theorem div_one_eq_withSign (s : Int) :
    (s : Rat) / one = withSign (decide (s < 0)) ((s.natAbs : Rat) / (1 : Nat) / one) := by
  rw [Nat.cast_one, div_one, Nat.cast_natAbs, withSign]
  rcases lt_or_ge s 0 with hneg | hnonneg
  · rw [if_pos (decide_eq_true hneg), abs_of_neg hneg, Int.cast_neg, neg_div, neg_neg]
  · rw [if_neg (by simpa using hnonneg), abs_of_nonneg hnonneg]

theorem valueOf_mul_valueOf (a b : F32) :
    valueOf a * valueOf b
      = withSign (signOf a != signOf b) (((unitsOf a * unitsOf b : Nat) : Rat) / one / one) := by
  rw [valueOf_eq, valueOf_eq, withSign_mul, div_mul_div_comm, div_div, Nat.cast_mul]

theorem valueOf_div_valueOf (a b : F32) :
    valueOf a / valueOf b
      = withSign (signOf a != signOf b) (((unitsOf a * one : Nat) : Rat) / unitsOf b / one) := by
  rw [valueOf_eq, valueOf_eq, withSign_div, div_div_div_cancel_right₀ cast_one_units_pos.ne',
    Nat.cast_mul, div_right_comm, mul_div_cancel_right₀ _ cast_one_units_pos.ne']

theorem roundsAtTop_sumF32 {op : FOp} {a b : F32} (ha : isFinite a = true)
    (hb : isFinite b = true) : roundsAtTop (valueOf a + valueOf b) (sumF32 op a b) := by
  rw [sumF32_of_finite ha hb, valueOf_add_valueOf]
  split
  case isTrue hzero =>
    rw [hzero, Int.cast_zero, zero_div]
    exact roundsAtTop_zero _
  case isFalse =>
    rw [div_one_eq_withSign]
    exact roundsAtTop_packF32_roundBits _ one_pos

theorem roundsAtTop_fadd {a b : F32} (ha : isFinite a = true) (hb : isFinite b = true) :
    roundsAtTop (valueOf a + valueOf b) (fadd a b) := by
  rw [fadd]
  split
  case isTrue hzero =>
    rw [hzero, valueOf_plusZero, add_zero]
    exact roundsAtTop_valueOf ha
  case isFalse => exact roundsAtTop_sumF32 ha hb

theorem roundsAtTop_fsub {a b : F32} (ha : isFinite a = true) (hb : isFinite b = true) :
    roundsAtTop (valueOf a - valueOf b) (fsub a b) := by
  rw [sub_eq_add_neg, ← valueOf_negF32]
  exact roundsAtTop_sumF32 ha (isFinite_negF32 hb)

theorem roundsAtTop_fmul {a b : F32} (ha : isFinite a = true) (hb : isFinite b = true) :
    roundsAtTop (valueOf a * valueOf b) (fmul a b) := by
  rw [valueOf_mul_valueOf, fmul_of_finite ha hb]
  exact roundsAtTop_packF32_roundBits _ (Nat.two_pow_pos 149)

theorem roundsAtTop_fdiv {a b : F32} (ha : isFinite a = true) (hb : isFinite b = true)
    (hne : valueOf b ≠ 0) : roundsAtTop (valueOf a / valueOf b) (fdiv a b) := by
  have hunits := unitsOf_ne_zero_iff.2 hne
  rw [valueOf_div_valueOf, fdiv_of_finite ha hb hunits]
  exact roundsAtTop_packF32_roundBits _ (Nat.pos_of_ne_zero hunits)

/-! ## The classes of operands -/

theorem unitsOf_eq_zero_iff {x : F32} : unitsOf x = 0 ↔ valueOf x = 0 :=
  not_iff_not.1 unitsOf_ne_zero_iff

theorem isNaN_of_isInf {x : F32} (h : isInf x = true) : isNaN x = false := by
  rw [isInf, Bool.and_eq_true] at h
  simp [isNaN, beq_iff_eq.1 h.2]

theorem unitsOf_ne_zero_of_isInf {x : F32} (h : isInf x = true) : unitsOf x ≠ 0 := by
  rw [isInf, Bool.and_eq_true, beq_iff_eq] at h
  rw [unitsOf_of_normal (by omega)]
  positivity

@[simp] theorem isNaN_nanResult (op : FOp) (a b : F32) : isNaN (nanResult op a b) = true := by
  rw [nanResult]
  split
  case isTrue h => exact h
  case isFalse => decide

theorem isNaN_negF32 (x : F32) : isNaN (negF32 x) = isNaN x := by
  rw [isNaN, isNaN, expOf_negF32, fracOf_negF32]

theorem isInf_negF32 (x : F32) : isInf (negF32 x) = isInf x := by
  rw [isInf, isInf, expOf_negF32, fracOf_negF32]

theorem fadd_of_ne_plusZero {a b : F32} (h : b ≠ plusZero) : fadd a b = sumF32 .fadd a b :=
  if_neg h

theorem ne_plusZero_of_isNaN {x : F32} (h : isNaN x = true) : x ≠ plusZero := by
  rintro rfl
  exact absurd h (by decide)

theorem ne_plusZero_of_isInf {x : F32} (h : isInf x = true) : x ≠ plusZero := by
  rintro rfl
  exact absurd h (by decide)

/-! ## Sums on operands not finite -/

theorem isNaN_sumF32 {op : FOp} {a b : F32} (h : isNaN a = true ∨ isNaN b = true) :
    isNaN (sumF32 op a b) = true := by
  rw [sumF32, if_pos (Bool.or_eq_true_iff.2 h), isNaN_nanResult]

theorem isNaN_fadd {a b : F32} (h : isNaN a = true ∨ isNaN b = true) :
    isNaN (fadd a b) = true := by
  rw [fadd]
  split
  case isTrue hzero => exact h.resolve_right fun hb => ne_plusZero_of_isNaN hb hzero
  case isFalse => exact isNaN_sumF32 h

theorem isNaN_fsub {a b : F32} (h : isNaN a = true ∨ isNaN b = true) :
    isNaN (fsub a b) = true :=
  isNaN_sumF32 (by rwa [isNaN_negF32])

theorem sumF32_of_isInf_left {op : FOp} {a b : F32} (ha : isInf a = true)
    (hb : isFinite b = true) : sumF32 op a b = a := by
  simp [sumF32, isNaN_of_isInf, ha, isNaN_of_isFinite, isInf_of_isFinite, hb]

theorem sumF32_of_isInf_right {op : FOp} {a b : F32} (ha : isFinite a = true)
    (hb : isInf b = true) : sumF32 op a b = b := by
  simp [sumF32, isNaN_of_isFinite, isInf_of_isFinite, ha, isNaN_of_isInf, hb]

theorem sumF32_of_same_inf {op : FOp} {a b : F32} (ha : isInf a = true)
    (hb : isInf b = true) (h : signOf a = signOf b) : sumF32 op a b = a := by
  simp [sumF32, isNaN_of_isInf, ha, hb, h]

theorem isNaN_sumF32_of_opposite_inf {op : FOp} {a b : F32} (ha : isInf a = true)
    (hb : isInf b = true) (h : signOf a ≠ signOf b) : isNaN (sumF32 op a b) = true := by
  simp [sumF32, isNaN_of_isInf, ha, hb, h]

theorem fadd_of_isInf_left {a b : F32} (ha : isInf a = true) (hb : isFinite b = true) :
    fadd a b = a := by
  rw [fadd]
  split
  case isTrue => rfl
  case isFalse => exact sumF32_of_isInf_left ha hb

/-! ## Products and quotients on operands not finite -/

theorem isNaN_fmul {a b : F32} (h : isNaN a = true ∨ isNaN b = true) :
    isNaN (fmul a b) = true := by
  rw [fmul, if_pos (Bool.or_eq_true_iff.2 h), isNaN_nanResult]

theorem isNaN_fdiv {a b : F32} (h : isNaN a = true ∨ isNaN b = true) :
    isNaN (fdiv a b) = true := by
  rw [fdiv, if_pos (Bool.or_eq_true_iff.2 h), isNaN_nanResult]

/-- The branch of `fmul` with an infinite operand. -/
theorem fmul_of_isInf {a b : F32} (ha : isNaN a = false) (hb : isNaN b = false)
    (h : isInf a = true ∨ isInf b = true) :
    fmul a b = if unitsOf a = 0 ∨ unitsOf b = 0 then nanResult .fmul a b
      else infinity (signOf a != signOf b) := by
  simp [fmul, ha, hb, h]

/-- The branches of `fdiv` with a finite dividend and a zero divisor. -/
theorem fdiv_of_zero {a b : F32} (ha : isFinite a = true) (hb : isFinite b = true)
    (h : unitsOf b = 0) :
    fdiv a b = if unitsOf a = 0 then nanResult .fdiv a b else infinity (signOf a != signOf b) := by
  simp [fdiv, isNaN_of_isFinite, isInf_of_isFinite, ha, hb, h]

theorem fdiv_of_isInf_left {a b : F32} (ha : isInf a = true) (hb : isFinite b = true) :
    fdiv a b = infinity (signOf a != signOf b) := by
  simp [fdiv, isNaN_of_isInf, ha, isNaN_of_isFinite, isInf_of_isFinite, hb]

theorem fdiv_of_isInf_right {a b : F32} (ha : isFinite a = true) (hb : isInf b = true) :
    fdiv a b = packF32 (signOf a != signOf b) 0 := by
  simp [fdiv, isNaN_of_isFinite, isInf_of_isFinite, ha, isNaN_of_isInf, hb]

theorem isNaN_fdiv_of_isInf {a b : F32} (ha : isInf a = true) (hb : isInf b = true) :
    isNaN (fdiv a b) = true := by
  simp [fdiv, isNaN_of_isInf, ha, hb]

/-- Settles O52: the five classes of operands, each operation by its own lemma. -/
theorem overflowAndSpecialOperands : Obligations.OverflowAndSpecialOperands := by
  intro a b
  refine ⟨fun ha hb => ?finite, fun h => ?nan, fun ha hb => ?infLeft, fun ha hb => ?infRight,
    fun ha hb => ?infBoth⟩
  case finite =>
    refine ⟨roundsAtTop_fadd ha hb, roundsAtTop_fsub ha hb, roundsAtTop_fmul ha hb,
      roundsAtTop_fdiv ha hb, fun hzero hne => ?_, fun hzero hzeroA => ?_⟩
    · rw [fdiv_of_zero ha hb (unitsOf_eq_zero_iff.2 hzero), if_neg (unitsOf_ne_zero_iff.2 hne)]
    · rw [fdiv_of_zero ha hb (unitsOf_eq_zero_iff.2 hzero), if_pos (unitsOf_eq_zero_iff.2 hzeroA),
        isNaN_nanResult]
  case nan => exact ⟨isNaN_fadd h, isNaN_fsub h, isNaN_fmul h, isNaN_fdiv h⟩
  case infLeft =>
    have hmul := fmul_of_isInf (isNaN_of_isInf ha) (isNaN_of_isFinite hb) (.inl ha)
    simp only [unitsOf_ne_zero_of_isInf ha, false_or, unitsOf_eq_zero_iff] at hmul
    refine ⟨fadd_of_isInf_left ha hb, sumF32_of_isInf_left ha (isFinite_negF32 hb),
      fdiv_of_isInf_left ha hb, fun hne => ?_, fun hzero => ?_⟩
    · rw [hmul, if_neg hne]
    · rw [hmul, if_pos hzero, isNaN_nanResult]
  case infRight =>
    have hmul := fmul_of_isInf (isNaN_of_isFinite ha) (isNaN_of_isInf hb) (.inr hb)
    simp only [unitsOf_ne_zero_of_isInf hb, or_false, unitsOf_eq_zero_iff] at hmul
    refine ⟨?_, sumF32_of_isInf_right ha (by rwa [isInf_negF32]), fdiv_of_isInf_right ha hb,
      fun hne => ?_, fun hzero => ?_⟩
    · rw [fadd_of_ne_plusZero (ne_plusZero_of_isInf hb), sumF32_of_isInf_right ha hb]
    · rw [hmul, if_neg hne]
    · rw [hmul, if_pos hzero, isNaN_nanResult]
  case infBoth =>
    have hneg : isInf (negF32 b) = true := by rwa [isInf_negF32]
    have hflip : signOf (negF32 b) = !signOf b := signOf_negF32 b
    rw [fadd_of_ne_plusZero (ne_plusZero_of_isInf hb), fsub,
      fmul_of_isInf (isNaN_of_isInf ha) (isNaN_of_isInf hb) (.inl ha),
      if_neg (not_or.2 ⟨unitsOf_ne_zero_of_isInf ha, unitsOf_ne_zero_of_isInf hb⟩)]
    refine ⟨rfl, isNaN_fdiv_of_isInf ha hb, fun hsame => ?_, fun hopposite => ?_⟩
    · have hopposite : signOf a ≠ signOf (negF32 b) := by simp [hflip, hsame]
      exact ⟨sumF32_of_same_inf ha hb hsame, isNaN_sumF32_of_opposite_inf ha hneg hopposite⟩
    · have hsame : signOf a = signOf (negF32 b) := hflip ▸ Bool.eq_not.2 hopposite
      exact ⟨isNaN_sumF32_of_opposite_inf ha hb hopposite, sumF32_of_same_inf ha hneg hsame⟩

end Sys2Proof.Machine
end
